-- ==== Sys2Proof/Word.lean ====
section
/-! DEFINITION. Words, bytes and complex values: the types of what CORE's registers and memory elements hold. -/

namespace Sys2Proof

/-- A host register or a word element (10_state.md R41, R60). -/
abbrev Word := BitVec 32

/-- An element of BSM (10_state.md R60). -/
abbrev Byte := BitVec 8

/-- A `Real` of 00_scope.md R21 as its 32-bit encoding (20_memory.md R103). The reference instance of R,
IEEE 754 binary32, is the one modelled. PRESUMED (log 5), safe: the spec names it as the reference instance. -/
abbrev Real32 := BitVec 32

/-- A `Complex` of 00_scope.md R22. -/
structure Cplx where
  re : Real32
  im : Real32
deriving DecidableEq, Repr, Inhabited

namespace Cplx

/-- The complex 0. -/
def zero : Cplx := ⟨0, 0⟩

end Cplx

end Sys2Proof
end

