-- ==== Sys2Proof/Config.lean ====
section
/-! DEFINITION. What an implementation fixes: the sizes of 00_scope.md R14, the parameters of R15 (those with a
default at their default, the OPEN ones as one value `Params`), and the free values, constants without a body. -/

namespace Sys2Proof.Config

/-! ### Sizes (00_scope.md R13, R14) -/

/-- NUM_CH. -/
abbrev numCh : Nat := 8
/-- MAX_TLEN. -/
abbrev maxTlen : Nat := 2048
/-- MAX_TS. -/
abbrev maxTs : Nat := 32
/-- MAX_SFB. -/
abbrev maxSfb : Nat := 64
/-- MAX_SBG. -/
abbrev maxSbg : Nat := 48
/-- MAX_NOISE_ENV. -/
abbrev maxNoiseEnv : Nat := 2
/-- At most 16 window groups. -/
abbrev maxGroups : Nat := 16
/-- At most 5 signal envelopes. -/
abbrev maxEnv : Nat := 5
/-- At most 5 noise subband groups. -/
abbrev maxNoiseSbg : Nat := 5
/-- At most 6 patches. -/
abbrev maxPatches : Nat := 6
/-- BSM_BYTES. -/
abbrev bsmBytes : Nat := 16384
/-- SIM elements of one channel (10_state.md R62). -/
abbrev simStride : Nat := 4096
/-- PCM and TD elements of one channel (10_state.md R63, R65). -/
abbrev pcmStride : Nat := 2048
/-- QG elements of one channel: MAX_TS x 64 x 2 (10_state.md R64). -/
abbrev qgStride : Nat := 4096

/-- frameLengthBase by FLB_IDX (10_state.md R49). -/
def flbTable : List Nat := [384, 480, 512, 768, 960, 1024, 1536, 1920, 2048]

/-! ### Parameters with a default, at their default (00_scope.md R15; log 8) -/

/-- SEQ_BITS. -/
abbrev seqBits : Nat := 10
/-- SEQ_MOD. -/
abbrev seqMod : Nat := 1024
/-- CB_BITS. -/
abbrev cbBits : Nat := 4
/-- SF_REF_BITS. -/
abbrev sfRefBits : Nat := 8
/-- SF_DELTA_OFFSET. -/
abbrev sfDeltaOffset : Int := 60
/-- SF_MAX. -/
abbrev sfMax : Int := 255
/-- NOISE_OFS. -/
abbrev noiseOfs : Int := 6
/-- NOISE_LEN. -/
abbrev noiseLen : Nat := 512

/-- TLEN_TABLE(flb), the default list of 93_implementation_defined.md I-TLEN. -/
def tlenTable : Nat → List Nat
  | 384 => [384, 192, 96]
  | 480 => [480, 240, 120]
  | 512 => [512, 256, 128, 64]
  | 768 => [768, 384, 192, 96]
  | 960 => [960, 480, 240, 120]
  | 1024 => [1024, 512, 256, 128, 64]
  | 1536 => [1536, 768, 384, 192, 96]
  | 1920 => [1920, 960, 480, 240, 120]
  | 2048 => [2048, 1024, 512, 256, 128]
  | _ => []

/-- A codebook descriptor (42_spectral.md R215), less its VLC table id, which is OPEN (`Params.cbTable`). -/
structure CbDesc where
  dim : Nat
  signed : Bool
  lav : Nat
  esc : Bool
deriving DecidableEq, Repr

/-- CB_DESC, the default table of 42_spectral.md R215; `none` where the codebook is undefined. -/
def cbDesc : Nat → Option CbDesc
  | 1 | 2 => some ⟨4, true, 1, false⟩
  | 3 | 4 => some ⟨4, false, 2, false⟩
  | 5 | 6 => some ⟨2, true, 4, false⟩
  | 7 | 8 => some ⟨2, false, 7, false⟩
  | 9 | 10 => some ⟨2, false, 12, false⟩
  | 11 => some ⟨2, false, 16, true⟩
  | _ => none

/-- GOAL_SB, default sbTop (00_scope.md R15). -/
def goalSb (sbTop : Nat) : Nat := sbTop

/-! ### OPEN parameters without a default (92_eei_decisions.md section 9) -/

/-- One codeword of a VLC table: its bits read as a number, its length, its symbol (00_scope.md R20). -/
structure VlcEntry where
  code : Nat
  len : Nat
  sym : Nat
deriving DecidableEq, Repr, Inhabited

/-- The OPEN parameters, one configuration value fixed for the whole run (00_scope.md R15, R16). -/
structure Params where
  /-- IMPL_ID (10_state.md R44). -/
  implId : Word
  /-- VLC[t]: the tables that are defined, each under its id. -/
  vlc : List (Nat × List VlcEntry)
  /-- CB_DESC[cb].table (42_spectral.md R215). -/
  cbTable : Vector Nat 16
  /-- SF_TABLE. -/
  sfTable : Nat
  /-- SNF_TABLE. -/
  snfTable : Nat
  /-- SNF_INIT. -/
  snfInit : Int
  /-- SFB_OFFSETS(flb, N). -/
  sfbOffsets : List ((Nat × Nat) × List Nat)
  /-- QMF_WIN. -/
  qmfWin : Vector Real32 640
  /-- MASTER_TABLE(start, stop, scale), a partial function. -/
  masterTable : List ((Int × Int × Int) × List Nat)
  /-- ASPX_DELAY. -/
  aspxDelay : Nat
  /-- NOISE_TAB. -/
  noiseTab : Vector Cplx 512
deriving DecidableEq, Repr, Inhabited

namespace Params

/-- HIST_TS = ASPX_DELAY + 2 (10_state.md R73). -/
def histTs (p : Params) : Nat := p.aspxDelay + 2

/-- VLC[t], `none` where it is not defined. -/
def vlcTable (p : Params) (t : Nat) : Option (List VlcEntry) := p.vlc.lookup t

/-- SFB_OFFSETS(flb, N); the empty list, which is not a legal one, where the parameter gives none. -/
def sfb (p : Params) (flb n : Nat) : List Nat := (p.sfbOffsets.lookup (flb, n)).getD []

/-- MASTER_TABLE(start, stop, scale), `none` where it is undefined (45_aspx_tables.md R303). -/
def master (p : Params) (cfg : Int × Int × Int) : Option (List Nat) := p.masterTable.lookup cfg

end Params

/-- The value of the OPEN parameters that the machine is built with. DESIGN CHOICE (log 1), safe: a constant
without a body, so nothing can be proved of its value. -/
opaque params : Params

/-! ### Free values -/

/-- The content of element `index` of memory space `space` where the spec leaves it unspecified
(70_reset_and_hazards.md R420, R421; 10_state.md R84). `epoch` tells one loss of contents from another. Log 3, safe. -/
opaque anyWord (space epoch index : Nat) : Word

/-- The content of BSM byte `index` where nothing has written it (70_reset_and_hazards.md R420). Log 3, safe. -/
opaque anyByte (epoch index : Nat) : Byte

/-- The operations of R that can give a NaN (60_exceptions.md R392). -/
inductive NumOp where
  | add | mul | div | sqrt | pow2 | min
deriving DecidableEq, Repr

/-- Sign and payload of the quiet NaN an operation gives on its operands (60_exceptions.md R392: unspecified).
Log 6, safe. -/
opaque nanBits (op : NumOp) (a b : Real32) : BitVec 23

/-- pow2 of a finite argument that is no multiple of 1/4; no rule of the spec gives pow2 such an argument.
Log 7, safe. -/
opaque pow2Other (x : Real32) : Real32

end Sys2Proof.Config
end

