-- ==== Sys2Proof/Syntax.lean ====
section
/-! DEFINITION. The 24 commands of 30_encoding.md R135, one constructor per row of opcode_table.json, each operand
field at the width its encoding gives it (R133, R136). -/

namespace Sys2Proof

/-- A command. `c`, `c2` are CH and second-channel fields, `g` a group field. -/
inductive Instr where
  | nop
  | chreset (c : BitVec 4)
  | fbegin (flbIdx chmode : BitVec 4) (codecmode : BitVec 2) (indep seqp : Bool)
  | fcommit
  | fabort
  | setlayout (c : BitVec 4)
  | rdbits (nbits : BitVec 6)
  | rdunary (stop : Bool) (maxLen : BitVec 16)
  | rdvlc (table : BitVec 8)
  | rdesc (base : BitVec 5)
  | sect (c g lenBits : BitVec 4)
  | spec (c g : BitVec 4)
  | sf (c g : BitVec 4) (snfp : Bool)
  | arith (c g : BitVec 4)
  | deq (c g : BitVec 4)
  | stereo (c c2 : BitVec 4)
  | imdct (c : BitVec 4)
  | qmfa (c : BitVec 4)
  | qmfs (c : BitVec 4)
  | aspxcfg (c : BitVec 4)
  | aspxenv (c : BitVec 4)
  | aspxhf (c : BitVec 4)
  | aspxgain (c : BitVec 4)
  | aspxasm (c : BitVec 4)
deriving DecidableEq, Repr

/-- The channel-slot fields of a command, CH first (30_encoding.md R132). -/
def Instr.slots : Instr → List (BitVec 4)
  | .nop | .fbegin _ _ _ _ _ | .fcommit | .fabort => []
  | .rdbits _ | .rdunary _ _ | .rdvlc _ | .rdesc _ => []
  | .stereo c c2 => [c, c2]
  | .chreset c | .setlayout c | .sect c _ _ | .spec c _ | .sf c _ _ | .arith c _ | .deq c _ => [c]
  | .imdct c | .qmfa c | .qmfs c => [c]
  | .aspxcfg c | .aspxenv c | .aspxhf c | .aspxgain c | .aspxasm c => [c]

end Sys2Proof
end

