-- ==== Sys2Proof/WellFormed.lean ====
section
/-! DEFINITION. Well-formedness: step 3 of the decode order of 30_encoding.md R134. A group field of 4 bits is
always below 16, so the only check that can fail is that of a slot field. -/

namespace Sys2Proof

/-- A slot field names one of the NUM_CH slots. -/
def slotOk (c : BitVec 4) : Bool := decide (c.toNat < Config.numCh)

/-- Every slot field of the command is below NUM_CH (30_encoding.md R134 step 3). -/
def Instr.wellFormed (i : Instr) : Bool := i.slots.all slotOk

end Sys2Proof
end

