-- ==== Sys2Proof/Decode.lean ====
section
/-! DEFINITION. The decoder of command words and, after it, the encoder, both from 30_encoding.md R131 to R137. -/

namespace Sys2Proof

/-- Why a word is no command: its OP is in no row (30_encoding.md R134 step 1), or a must-be-zero bit is set
(step 2). -/
inductive Reject where
  | opcode
  | field
deriving DecidableEq, Repr

/-- OP, bits 31:24 (30_encoding.md R131). -/
def opField (w : Word) : BitVec 8 := w.extractLsb' 24 8
/-- CH, bits 23:20. -/
def chField (w : Word) : BitVec 4 := w.extractLsb' 20 4
/-- SUB, bits 19:16. -/
def subField (w : Word) : BitVec 4 := w.extractLsb' 16 4
/-- The low `n` bits of IMM. -/
def immField (n : Nat) (w : Word) : BitVec n := w.extractLsb' 0 n

/-- A row of the table: the command if the row's must-be-zero bits are 0, else the rejection of
30_encoding.md R134 step 2. -/
def decodeRow (mbz w : Word) (i : Instr) : Except Reject Instr :=
  if w &&& mbz = 0 then .ok i else .error .field

/-- The command a word stands for (30_encoding.md R134 steps 1 and 2, R136). The first argument of `decodeRow` is
the complement of the row's mask of R136 seen in the bits below OP. -/
def decode (w : Word) : Except Reject Instr :=
  match (opField w).toNat with
  | 0x00 => decodeRow 0x00FFFFFF w .nop
  | 0x01 => decodeRow 0x000FFFFF w (.chreset (chField w))
  | 0x02 => decodeRow 0x00FFF000 w
      (.fbegin (w.extractLsb' 0 4) (w.extractLsb' 4 4) (w.extractLsb' 8 2) (w.getLsbD 10) (w.getLsbD 11))
  | 0x03 => decodeRow 0x00FFFFFF w .fcommit
  | 0x04 => decodeRow 0x00FFFFFF w .fabort
  | 0x05 => decodeRow 0x000FFFFF w (.setlayout (chField w))
  | 0x10 => decodeRow 0x00FFFFC0 w (.rdbits (immField 6 w))
  | 0x11 => decodeRow 0x00FE0000 w (.rdunary (w.getLsbD 16) (immField 16 w))
  | 0x12 => decodeRow 0x00FFFF00 w (.rdvlc (immField 8 w))
  | 0x13 => decodeRow 0x00FFFFE0 w (.rdesc (immField 5 w))
  | 0x20 => decodeRow 0x0000FFF0 w (.sect (chField w) (subField w) (immField 4 w))
  | 0x21 => decodeRow 0x0000FFFF w (.spec (chField w) (subField w))
  | 0x22 => decodeRow 0x0000FFFE w (.sf (chField w) (subField w) (w.getLsbD 0))
  | 0x23 => decodeRow 0x0000FFFF w (.arith (chField w) (subField w))
  | 0x24 => decodeRow 0x0000FFFF w (.deq (chField w) (subField w))
  | 0x30 => decodeRow 0x0000FFFF w (.stereo (chField w) (subField w))
  | 0x40 => decodeRow 0x000FFFFF w (.imdct (chField w))
  | 0x50 => decodeRow 0x000FFFFF w (.qmfa (chField w))
  | 0x51 => decodeRow 0x000FFFFF w (.qmfs (chField w))
  | 0x60 => decodeRow 0x000FFFFF w (.aspxcfg (chField w))
  | 0x61 => decodeRow 0x000FFFFF w (.aspxenv (chField w))
  | 0x62 => decodeRow 0x000FFFFF w (.aspxhf (chField w))
  | 0x63 => decodeRow 0x000FFFFF w (.aspxgain (chField w))
  | 0x64 => decodeRow 0x000FFFFF w (.aspxasm (chField w))
  | _ => .error .opcode

/-- The command the decoder reads from a table row's word; a command is one word (30_encoding.md R130), and the bits
above `nbits` are 0. -/
def decodeTableWord (nbits w : Nat) : Option Instr :=
  (decode (BitVec.ofNat 32 (w % 2 ^ nbits))).toOption

/-! ### The encoder -/

/-- A word from its four fields (30_encoding.md R131). -/
def word (op : BitVec 8) (ch sub : BitVec 4) (imm : BitVec 16) : Word := op ++ ch ++ sub ++ imm

/-- The word of a command (30_encoding.md R133, R136). -/
def encode : Instr → Word
  | .nop => word 0x00 0 0 0
  | .chreset c => word 0x01 c 0 0
  | .fbegin flbIdx chmode codecmode indep seqp =>
      word 0x02 0 0 (0#4 ++ BitVec.ofBool seqp ++ BitVec.ofBool indep ++ codecmode ++ chmode ++ flbIdx)
  | .fcommit => word 0x03 0 0 0
  | .fabort => word 0x04 0 0 0
  | .setlayout c => word 0x05 c 0 0
  | .rdbits nbits => word 0x10 0 0 (0#10 ++ nbits)
  | .rdunary stop maxLen => word 0x11 0 (0#3 ++ BitVec.ofBool stop) maxLen
  | .rdvlc table => word 0x12 0 0 (0#8 ++ table)
  | .rdesc base => word 0x13 0 0 (0#11 ++ base)
  | .sect c g lenBits => word 0x20 c g (0#12 ++ lenBits)
  | .spec c g => word 0x21 c g 0
  | .sf c g snfp => word 0x22 c g (0#15 ++ BitVec.ofBool snfp)
  | .arith c g => word 0x23 c g 0
  | .deq c g => word 0x24 c g 0
  | .stereo c c2 => word 0x30 c c2 0
  | .imdct c => word 0x40 c 0 0
  | .qmfa c => word 0x50 c 0 0
  | .qmfs c => word 0x51 c 0 0
  | .aspxcfg c => word 0x60 c 0 0
  | .aspxenv c => word 0x61 c 0 0
  | .aspxhf c => word 0x62 c 0 0
  | .aspxgain c => word 0x63 c 0 0
  | .aspxasm c => word 0x64 c 0 0

/-! ### The table -/

/-- The match and the mask of a command's row (30_encoding.md R136). -/
def rowOf : Instr → Word × Word
  | .nop => (0x00000000, 0xFFFFFFFF)
  | .chreset _ => (0x01000000, 0xFF0FFFFF)
  | .fbegin _ _ _ _ _ => (0x02000000, 0xFFFFF000)
  | .fcommit => (0x03000000, 0xFFFFFFFF)
  | .fabort => (0x04000000, 0xFFFFFFFF)
  | .setlayout _ => (0x05000000, 0xFF0FFFFF)
  | .rdbits _ => (0x10000000, 0xFFFFFFC0)
  | .rdunary _ _ => (0x11000000, 0xFFFE0000)
  | .rdvlc _ => (0x12000000, 0xFFFFFF00)
  | .rdesc _ => (0x13000000, 0xFFFFFFE0)
  | .sect _ _ _ => (0x20000000, 0xFF00FFF0)
  | .spec _ _ => (0x21000000, 0xFF00FFFF)
  | .sf _ _ _ => (0x22000000, 0xFF00FFFE)
  | .arith _ _ => (0x23000000, 0xFF00FFFF)
  | .deq _ _ => (0x24000000, 0xFF00FFFF)
  | .stereo _ _ => (0x30000000, 0xFF00FFFF)
  | .imdct _ => (0x40000000, 0xFF0FFFFF)
  | .qmfa _ => (0x50000000, 0xFF0FFFFF)
  | .qmfs _ => (0x51000000, 0xFF0FFFFF)
  | .aspxcfg _ => (0x60000000, 0xFF0FFFFF)
  | .aspxenv _ => (0x61000000, 0xFF0FFFFF)
  | .aspxhf _ => (0x62000000, 0xFF0FFFFF)
  | .aspxgain _ => (0x63000000, 0xFF0FFFFF)
  | .aspxasm _ => (0x64000000, 0xFF0FFFFF)

/-- One command of each row, in the order of the table. -/
def rowSamples : List Instr :=
  [.nop, .chreset 0, .fbegin 0 0 0 false false, .fcommit, .fabort, .setlayout 0, .rdbits 0, .rdunary false 0,
    .rdvlc 0, .rdesc 0, .sect 0 0 0, .spec 0 0, .sf 0 0 false, .arith 0 0, .deq 0 0, .stereo 0 0, .imdct 0,
    .qmfa 0, .qmfs 0, .aspxcfg 0, .aspxenv 0, .aspxhf 0, .aspxgain 0, .aspxasm 0]

/-- The rows of the table, each its match and its mask (30_encoding.md R136). -/
def tableRows : List (Word × Word) := rowSamples.map rowOf

end Sys2Proof
end

