-- ==== Sys2Proof/Machine/State.lean ====
section
/-! DEFINITION. The state of CORE (10_state.md R40) as plain data, its fault and refusal reasons, and its reset
(70_reset_and_hazards.md R420). -/

namespace Sys2Proof.Machine

open Sys2Proof Config

/-! ### Host registers with fields -/

/-- STATUS (10_state.md R43). Bits 31:25 are reserved and read 0. `fopen` is F.open and `ffail` is F.failed (R80). -/
structure Status where
  busy : Bool
  fopen : Bool
  ffail : Bool
  done : Bool
  err : Bool
  warn : Bool
  gap : Bool
  herr : Bool
  errcode : BitVec 8
  warncode : BitVec 8
  pcmv : Bool
deriving DecidableEq, Repr

/-- STATUS after reset: 0. -/
def Status.zero : Status := ⟨false, false, false, false, false, false, false, false, 0, 0, false⟩

/-- CTRL (10_state.md R42): its four enable bits. SRST reads 0 and bits 31:5 are reserved and read 0. -/
structure Ctrl where
  ieDone : Bool
  ieErr : Bool
  ieWarn : Bool
  ieHerr : Bool
deriving DecidableEq, Repr

/-- CTRL after reset: 0. -/
def Ctrl.zero : Ctrl := ⟨false, false, false, false⟩

/-! ### Memory spaces -/

/-- What an element that is not listed holds: one value, or unspecified contents (a free value of loss `epoch`). -/
inductive Fill (α : Type) where
  | value (v : α)
  | free (epoch : Nat)
deriving DecidableEq, Repr

/-- A memory space: the elements whose content differs from `fill`, by strictly rising index. -/
structure Memory (α : Type) where
  fill : Fill α
  cells : List (Nat × α)
deriving DecidableEq, Repr

/-! ### ChannelState (10_state.md R70 to R75) -/

/-- One entry of `wins`: sample offset, transform length N, group (10_state.md R71). -/
structure Window where
  off : Nat
  len : Nat
  grp : Nat
deriving DecidableEq, Repr

/-- A patch (srcStart, dstStart, count) (10_state.md R74). -/
structure Patch where
  src : Nat
  dst : Nat
  count : Nat
deriving DecidableEq, Repr

/-- One QMF timeslot: 64 complex subbands. -/
abbrev Slot := Vector Cplx 64

/-- The ChannelState record of one slot in one generation. -/
structure ChannelState where
  -- window layout, 10_state.md R71
  ngroups : Nat
  nwin : Vector Nat 16
  tlen : Vector Nat 16
  maxSfb : Vector Nat 16
  smap : Vector (Option (Nat × Nat)) 2048
  wins : List Window
  -- IMDCT, R72
  acc : Vector Real32 4096
  tail : Vector Real32 2048
  nprev : Nat
  flbPrev : Nat
  -- QMF, R73
  qa : Vector Real32 640
  qs : Vector Real32 1280
  qhist : List Slot
  -- ASPX tables, R74
  cfgPrev : Option (Int × Int × Int)
  masterResetPending : Bool
  tablesValid : Bool
  sbgMaster : List Nat
  sbgHi : List Nat
  sbgLo : List Nat
  sbgNoise : List Nat
  sbgLim : List Nat
  patches : List Patch
  sbx : Nat
  sbTop : Nat
  -- ASPX history, R75
  qscfPrev : Vector Int 48
  freqResPrev : Bool
  qnoisePrev : Vector Int 5
  invfPrev : Vector (Fin 4) 5
  chirpPrev : Vector Real32 5
  alphaPrev : Vector (Cplx × Cplx) 64
  noiseIdx : Vector (Fin 512) 64
  sineIdx : Vector (Fin 4) 64
deriving DecidableEq, Repr

/-- A timeslot of zeros. -/
def Slot.zero : Slot := Vector.replicate 64 Cplx.zero

/-- The reset ChannelState (the reset columns of 10_state.md R71 to R75). -/
def ChannelState.reset (p : Params) : ChannelState where
  ngroups := 0
  nwin := Vector.replicate 16 0
  tlen := Vector.replicate 16 0
  maxSfb := Vector.replicate 16 0
  smap := Vector.replicate 2048 none
  wins := []
  acc := Vector.replicate 4096 0
  tail := Vector.replicate 2048 0
  nprev := 0
  flbPrev := 0
  qa := Vector.replicate 640 0
  qs := Vector.replicate 1280 0
  qhist := List.replicate p.histTs Slot.zero
  cfgPrev := none
  masterResetPending := true
  tablesValid := false
  sbgMaster := []
  sbgHi := []
  sbgLo := []
  sbgNoise := []
  sbgLim := []
  patches := []
  sbx := 0
  sbTop := 0
  qscfPrev := Vector.replicate 48 0
  freqResPrev := true
  qnoisePrev := Vector.replicate 5 0
  invfPrev := Vector.replicate 5 0
  chirpPrev := Vector.replicate 5 0
  alphaPrev := Vector.replicate 64 (Cplx.zero, Cplx.zero)
  noiseIdx := Vector.replicate 64 0
  sineIdx := Vector.replicate 64 0

/-! ### Frame-scoped state (10_state.md R80 to R86) -/

/-- A stage name (10_state.md R86); `g` is a group. -/
inductive Stage where
  | layout
  | sect (g : Fin 16)
  | spec (g : Fin 16)
  | sf (g : Fin 16)
  | deq (g : Fin 16)
  | stereo
  | imdct
  | qmfa
  | axcfg
  | axenv
  | axhf
  | axgain
  | axasm
  | qmfs
deriving DecidableEq, Repr

/-- `F[c].done`, a set of stage names, one Bool for each. -/
structure Done where
  layout : Bool
  sect : Vector Bool 16
  spec : Vector Bool 16
  sf : Vector Bool 16
  deq : Vector Bool 16
  stereo : Bool
  imdct : Bool
  qmfa : Bool
  axcfg : Bool
  axenv : Bool
  axhf : Bool
  axgain : Bool
  axasm : Bool
  qmfs : Bool
deriving DecidableEq, Repr

/-- The empty set of stages. -/
def Done.empty : Done where
  layout := false
  sect := Vector.replicate 16 false
  spec := Vector.replicate 16 false
  sf := Vector.replicate 16 false
  deq := Vector.replicate 16 false
  stereo := false
  imdct := false
  qmfa := false
  axcfg := false
  axenv := false
  axhf := false
  axgain := false
  axasm := false
  qmfs := false

/-- A frame-scoped array of `n` entries; `none` is an entry that holds no value (10_state.md R83). -/
abbrev Tab (α : Type) (n : Nat) := Vector (Option α) n

/-- F[c] (10_state.md R81, R82, R86). Entry [g][b] of a band array is at 64 g + b, entry [l][i] of `qscf` at 48 l + i,
[q][j] of `qnoise` at 5 q + j, [l][m] of a level at 64 l + m, [ts][m] of `qhigh` at 64 ts + m. Entry t of Qlow is at
index t + HIST_TS of `qlow`. `sf` and `snf` hold an integer or NONE. -/
structure ChanFrame where
  done : Done
  cb : Tab Nat 1024
  q : Tab Int 2048
  maxMag : Tab Nat 1024
  sf : Tab (Option Int) 1024
  snf : Tab (Option Int) 1024
  coef : Tab Real32 2048
  sfFirst : Option Bool
  sfAcc : Option Int
  snfAcc : Option Int
  qlow : Option (List Slot)
  qhigh : Tab Cplx 2048
  qscf : Tab Int 240
  qnoise : Tab Int 10
  chirp : Tab Real32 5
  gainS : Tab Real32 320
  lvlN : Tab Real32 320
  lvlT : Tab Real32 320
  toneAt : Option (Vector Bool 64)
deriving DecidableEq, Repr

/-- F[c] with no field holding a value and no stage done (10_state.md R83, 40_control.md R162). -/
def ChanFrame.empty : ChanFrame where
  done := Done.empty
  cb := Vector.replicate 1024 none
  q := Vector.replicate 2048 none
  maxMag := Vector.replicate 1024 none
  sf := Vector.replicate 1024 none
  snf := Vector.replicate 1024 none
  coef := Vector.replicate 2048 none
  sfFirst := none
  sfAcc := none
  snfAcc := none
  qlow := none
  qhigh := Vector.replicate 2048 none
  qscf := Vector.replicate 240 none
  qnoise := Vector.replicate 10 none
  chirp := Vector.replicate 5 none
  gainS := Vector.replicate 320 none
  lvlN := Vector.replicate 320 none
  lvlT := Vector.replicate 320 none
  toneAt := none

/-- F less F.open and F.failed, which are STATUS bits (10_state.md R80). -/
structure Frame where
  flb : Nat
  numTs : Option Nat
  indep : Bool
  base : Nat
deriving DecidableEq, Repr

/-- F at its reset column (10_state.md R80). -/
def Frame.reset : Frame := ⟨0, none, false, 0⟩

/-! ### The host -/

/-- One access of the host to the register window (10_state.md R41): a write of a word, or a read. `size` is in
bytes; `whileBusy` says that the host does not wait for the command in progress to end. Log 2. -/
structure HostAccess where
  offset : Nat
  size : Nat
  write : Option Word
  whileBusy : Bool
deriving DecidableEq, Repr

/-! ### The state -/

/-- The state of CORE. `cfg`, `hostQ`, `rdata` and `draw` are the model's own fields (logs 1, 2, 4). -/
structure State where
  /-- The OPEN parameters; no step changes them (00_scope.md R16). -/
  cfg : Params
  ctrl : Ctrl
  status : Status
  cmd : Word
  arg0 : Word
  arg1 : Word
  result : Word
  bitpos : Word
  bitlen : Word
  fcfg : Word
  seq : Word
  haddr : Word
  bsm : Memory Byte
  sim : Memory Word
  pcm : Memory Word
  qg : Memory Word
  td : Memory Word
  /-- The working generation. -/
  w : Vector ChannelState 8
  /-- The committed generation. -/
  k : Vector ChannelState 8
  frame : Frame
  /-- F[c]. -/
  chan : Vector ChanFrame 8
  /-- The host accesses still to come, the next one first. -/
  hostQ : List HostAccess
  /-- What the last host read returned. -/
  rdata : Word
  /-- The counter free values are drawn from. -/
  draw : Nat
deriving DecidableEq, Repr

/-- CORE after power-on with parameters `p` (70_reset_and_hazards.md R420): memory contents unspecified, no host
access pending. -/
def State.powerOn (p : Params) : State where
  cfg := p
  ctrl := Ctrl.zero
  status := Status.zero
  cmd := 0
  arg0 := 0
  arg1 := 0
  result := 0
  bitpos := 0
  bitlen := 0
  fcfg := 0
  seq := 0
  haddr := 0
  bsm := ⟨.free 0, []⟩
  sim := ⟨.free 0, []⟩
  pcm := ⟨.free 0, []⟩
  qg := ⟨.free 0, []⟩
  td := ⟨.free 0, []⟩
  w := Vector.replicate 8 (ChannelState.reset p)
  k := Vector.replicate 8 (ChannelState.reset p)
  frame := Frame.reset
  chan := Vector.replicate 8 ChanFrame.empty
  hostQ := []
  rdata := 0
  draw := 1

/-- The machine right after reset (70_reset_and_hazards.md R420). -/
def State.reset : State := State.powerOn Config.params

/-- Why the machine has no step (70_reset_and_hazards.md R431; U16 of 93_implementation_defined.md: stuck). -/
inductive Fault where
  /-- Raised by `step` for a host access while BUSY = 1 other than a STATUS read or a CTRL write. Safe: the spec
  gives no step. -/
  | hostAccessWhileBusy
  /-- Raised by `step` for a host access that is no whole 32-bit word at a 4-byte-aligned offset. Safe: the spec
  gives no step. -/
  | hostAccessNotAWord
deriving DecidableEq, Repr

/-- Why the machine refuses. -/
inductive Refusal where
  /-- Raised by `exec` for an instruction without a meaning. Safe. -/
  | notModelled (mnemonic : String)
  /-- Raised by a command that uses a parameter which breaks a stated constraint, a VLC table that is not prefix-free
  or an SFB_OFFSETS list that is not increasing from 0 up to at most N (U17: refuse). Safe. -/
  | illegalParameter
deriving DecidableEq, Repr

end Sys2Proof.Machine
end

