-- ==== Sys2Proof/Machine/Flags.lean ====
section
/-! DEFINITION. The flags of CORE: the fields of STATUS and CTRL as words, the errors and warnings and what they do to
STATUS (60_exceptions.md R380 to R388), the W1C write, and the interrupt line. -/

namespace Sys2Proof.Machine

open Sys2Proof

/-- The fatal errors (60_exceptions.md R380). -/
inductive FatalError where
  | truncated
  | malformedCode
  | outOfRange
  | invalidBlockConfig
  | invalidAspxConfig
  | illegalCommand
deriving DecidableEq, Repr

/-- The code of a fatal error (60_exceptions.md R380). -/
def FatalError.code : FatalError → BitVec 8
  | .truncated => 1
  | .malformedCode => 2
  | .outOfRange => 3
  | .invalidBlockConfig => 4
  | .invalidAspxConfig => 5
  | .illegalCommand => 6

/-- The warnings (60_exceptions.md R380). -/
inductive Warning where
  | sequenceDiscontinuity
  | residualCodingUnsupported
deriving DecidableEq, Repr

/-- The code of a warning (60_exceptions.md R380). -/
def Warning.code : Warning → BitVec 8
  | .sequenceDiscontinuity => 16
  | .residualCodingUnsupported => 17

namespace Status

/-- STATUS as the host reads it (10_state.md R43). -/
def toWord (t : Status) : Word :=
  0#7 ++ BitVec.ofBool t.pcmv ++ t.warncode ++ t.errcode ++ BitVec.ofBool t.herr ++ BitVec.ofBool t.gap
    ++ BitVec.ofBool t.warn ++ BitVec.ofBool t.err ++ BitVec.ofBool t.done ++ BitVec.ofBool t.ffail
    ++ BitVec.ofBool t.fopen ++ BitVec.ofBool t.busy

/-- A host write of `v` to STATUS: bits 3 to 7 are cleared where `v` has a 1; ERRCODE and WARNCODE become 0 when ERR
and WARN are cleared; nothing else changes (10_state.md R43). -/
def w1c (t : Status) (v : Word) : Status :=
  { t with
    done := t.done && !v.getLsbD 3
    err := t.err && !v.getLsbD 4
    warn := t.warn && !v.getLsbD 5
    gap := t.gap && !v.getLsbD 6
    herr := t.herr && !v.getLsbD 7
    errcode := if v.getLsbD 4 then 0 else t.errcode
    warncode := if v.getLsbD 5 then 0 else t.warncode }

/-- The end of a command without a fatal error: DONE, and BUSY back to 0 (60_exceptions.md R386, 10_state.md R43). -/
def complete (t : Status) : Status := { t with done := true, busy := false }

/-- A fatal error in STATUS (60_exceptions.md R381, R382): ERRCODE is set only while ERR was 0, an open frame is
marked failed, DONE is not set. -/
def fatal (e : FatalError) (t : Status) : Status :=
  { t with
    errcode := if t.err then t.errcode else e.code
    err := true
    ffail := t.ffail || t.fopen
    busy := false }

/-- A warning in STATUS (60_exceptions.md R384). -/
def raiseWarning (x : Warning) (t : Status) : Status :=
  { t with
    warncode := if t.warn then t.warncode else x.code
    warn := true
    gap := t.gap || decide (x = .residualCodingUnsupported) }

end Status

namespace Ctrl

/-- CTRL as the host reads it: SRST and bits 31:5 read 0 (10_state.md R42). -/
def toWord (t : Ctrl) : Word :=
  0#27 ++ BitVec.ofBool t.ieHerr ++ BitVec.ofBool t.ieWarn ++ BitVec.ofBool t.ieErr ++ BitVec.ofBool t.ieDone ++ 0#1

/-- The enable bits of a word written to CTRL with SRST = 0 (10_state.md R42). -/
def ofWord (v : Word) : Ctrl := ⟨v.getLsbD 1, v.getLsbD 2, v.getLsbD 3, v.getLsbD 4⟩

end Ctrl

/-- The interrupt output (60_exceptions.md R388). -/
def irq (t : Status) (u : Ctrl) : Bool :=
  (t.done && u.ieDone) || (t.err && u.ieErr) || ((t.warn || t.gap) && u.ieWarn) || (t.herr && u.ieHerr)

/-- IRQ of a state: a function of STATUS and CTRL (10_state.md R90). -/
def State.irq (s : State) : Bool := Machine.irq s.status s.ctrl

end Sys2Proof.Machine
end

