-- ==== Sys2Proof/Machine/Ops.lean ====
section
/-! DEFINITION. The named operations over State: memory spaces, channel records, frame fields, progress flags, the
end of a command, taking a fatal error, taking a warning, ending a frame, the block reset. -/

namespace Sys2Proof.Machine

open Sys2Proof Config

/-! ### Memory spaces (20_memory.md R100) -/

namespace Memory

variable {α : Type} [DecidableEq α]

/-- The content of element `i`, `none` where it is unspecified. -/
def get? (m : Memory α) (i : Nat) : Option α :=
  match m.cells.lookup i with
  | some v => some v
  | none =>
    match m.fill with
    | .value v => some v
    | .free _ => none

/-- The content of element `i`; where it is unspecified, what `any` draws for it (70_reset_and_hazards.md R420). -/
def read (any : Nat → Nat → α) (m : Memory α) (i : Nat) : α :=
  match m.cells.lookup i with
  | some v => v
  | none =>
    match m.fill with
    | .value v => v
    | .free e => any e i

/-- `cells` without element `i`. -/
def erase (i : Nat) : List (Nat × α) → List (Nat × α)
  | [] => []
  | (j, v) :: l => if i = j then l else if i < j then (j, v) :: l else (j, v) :: erase i l

/-- `cells` with element `i` listed as `v`. -/
def insert (i : Nat) (v : α) : List (Nat × α) → List (Nat × α)
  | [] => [(i, v)]
  | (j, u) :: l => if i = j then (i, v) :: l else if i < j then (i, v) :: (j, u) :: l else (j, u) :: insert i v l

/-- MemWrite of one element (20_memory.md R100), in the canonical form. -/
def set (m : Memory α) (i : Nat) (v : α) : Memory α :=
  if m.fill = .value v then { m with cells := erase i m.cells } else { m with cells := insert i v m.cells }

/-- Several MemWrites, in order. -/
def setAll (m : Memory α) (l : List (Nat × α)) : Memory α :=
  l.foldl (fun m e => m.set e.1 e.2) m

/-- MemWrites of a run of elements from `base` on. -/
def setRun (m : Memory α) (base : Nat) : List α → Memory α
  | [] => m
  | v :: l => setRun (m.set base v) (base + 1) l

/-- Strictly rising indexes, all above `lo` where there is one. -/
def rising : Option Nat → List (Nat × α) → Bool
  | _, [] => true
  | lo, (i, _) :: l => (match lo with | some k => decide (k < i) | none => true) && rising (some i) l

/-- The canonical form: strictly rising indexes, and no listed element equal to what an unlisted one reads as. -/
def wf (m : Memory α) : Bool :=
  rising none m.cells && m.cells.all (fun e => decide (m.fill ≠ .value e.2))

end Memory

namespace State

/-! ### Elements of the five spaces -/

/-- The byte of BSM at `a`. -/
def bsmByte (s : State) (a : Nat) : Byte := s.bsm.read anyByte a
/-- The element of SIM at `i` as a word. -/
def simElem (s : State) (i : Nat) : Word := s.sim.read (anyWord 1) i
/-- The element of PCM at `i`. -/
def pcmElem (s : State) (i : Nat) : Word := s.pcm.read (anyWord 2) i
/-- The element of QG at `i`. -/
def qgElem (s : State) (i : Nat) : Word := s.qg.read (anyWord 3) i
/-- The element of TD at `i`. -/
def tdElem (s : State) (i : Nat) : Word := s.td.read (anyWord 4) i

/-- SIM[c][o] as a signed integer (10_state.md R62, 00_scope.md R28). -/
def simWord (s : State) (c : Fin 8) (o : Nat) : Int := (s.simElem (c.val * simStride + o)).toInt

/-! ### Channel records -/

/-- W[c]. -/
def wAt (s : State) (c : Fin 8) : ChannelState := s.w.get c
/-- K[c]. -/
def kAt (s : State) (c : Fin 8) : ChannelState := s.k.get c
/-- F[c]. -/
def chanAt (s : State) (c : Fin 8) : ChanFrame := s.chan.get c
/-- W[c] <- x. -/
def setW (s : State) (c : Fin 8) (x : ChannelState) : State := { s with w := s.w.set c x }
/-- K[c] <- x. -/
def setK (s : State) (c : Fin 8) (x : ChannelState) : State := { s with k := s.k.set c x }
/-- F[c] <- x. -/
def setChan (s : State) (c : Fin 8) (x : ChanFrame) : State := { s with chan := s.chan.set c x }

end State

/-! ### Progress flags (10_state.md R86) -/

namespace Done

/-- Membership of a stage. -/
def has (d : Done) : Stage → Bool
  | .layout => d.layout
  | .sect g => d.sect.get g
  | .spec g => d.spec.get g
  | .sf g => d.sf.get g
  | .deq g => d.deq.get g
  | .stereo => d.stereo
  | .imdct => d.imdct
  | .qmfa => d.qmfa
  | .axcfg => d.axcfg
  | .axenv => d.axenv
  | .axhf => d.axhf
  | .axgain => d.axgain
  | .axasm => d.axasm
  | .qmfs => d.qmfs

/-- done ∪ {stage}. -/
def add (d : Done) : Stage → Done
  | .layout => { d with layout := true }
  | .sect g => { d with sect := d.sect.set g true }
  | .spec g => { d with spec := d.spec.set g true }
  | .sf g => { d with sf := d.sf.set g true }
  | .deq g => { d with deq := d.deq.set g true }
  | .stereo => { d with stereo := true }
  | .imdct => { d with imdct := true }
  | .qmfa => { d with qmfa := true }
  | .axcfg => { d with axcfg := true }
  | .axenv => { d with axenv := true }
  | .axhf => { d with axhf := true }
  | .axgain => { d with axgain := true }
  | .axasm => { d with axasm := true }
  | .qmfs => { d with qmfs := true }

end Done

/-- The stage is in F[c].done. -/
def State.done (s : State) (c : Fin 8) (x : Stage) : Bool := (s.chanAt c).done.has x

/-- F[c].done <- F[c].done ∪ {x}. -/
def State.markDone (s : State) (c : Fin 8) (x : Stage) : State :=
  s.setChan c { s.chanAt c with done := (s.chanAt c).done.add x }

/-! ### How a command's pseudocode can end -/

/-- Why a command's pseudocode stops: a fatal error it raises (00_scope.md R19), or an illegal parameter it uses
(U17 of 93_implementation_defined.md). -/
inductive Stop where
  | fatal (e : FatalError)
  | illegalParameter
deriving DecidableEq, Repr

/-- `raise E`. -/
def raise {α : Type} (e : FatalError) : Except Stop α := .error (.fatal e)

/-- A check of a rule: go on if it holds, else `raise E`. -/
def require (b : Bool) (e : FatalError) : Except Stop Unit := if b then .ok () else raise e

/-- The value of a frame-scoped field; where no command of the frame has written one, IllegalCommand
(10_state.md R83; U6). -/
def valueOf {α : Type} (o : Option α) : Except Stop α :=
  match o with
  | some v => .ok v
  | none => raise .illegalCommand

/-- `f` on every entry of a list in order, the first stop ending it. -/
def mapE {α β : Type} (f : α → Except Stop β) : List α → Except Stop (List β)
  | [] => .ok []
  | a :: l =>
    match f a with
    | .error x => .error x
    | .ok b =>
      match mapE f l with
      | .error x => .error x
      | .ok bs => .ok (b :: bs)

/-! ### The end of a command -/

/-- A command ends without a fatal error (60_exceptions.md R386). -/
def State.complete (s : State) : State := { s with status := s.status.complete }

/-- TAKING A FATAL ERROR (60_exceptions.md R381, R382), on the state from before the command: nothing but STATUS
changes. There is no saved context and no vector; recovery is the host's (R389): a W1C write of STATUS
(`Status.w1c`) and FABORT or FCOMMIT (`State.endFrame`). -/
def State.takeFatal (s : State) (e : FatalError) : State := { s with status := s.status.fatal e }

/-- `warn E` (60_exceptions.md R384). -/
def State.takeWarning (s : State) (x : Warning) : State := { s with status := s.status.raiseWarning x }

/-- The outcome of a command whose pseudocode, run on `s`, ends as `r`: precise errors (60_exceptions.md R381). -/
def State.finish (s : State) (r : Except Stop State) : Host.Outcome State Fault Refusal :=
  match r with
  | .ok t => .next t.complete
  | .error (.fatal e) => .next (s.takeFatal e)
  | .error .illegalParameter => .refused .illegalParameter

/-- A slot field as a slot; only used once the field is known to be below NUM_CH. -/
def slotOf (c : BitVec 4) : Fin 8 := ⟨c.toNat % 8, Nat.mod_lt _ (by decide)⟩

/-- A frame is open and failed: commands are discarded (60_exceptions.md R383). -/
def State.failedFrame (s : State) : Bool := s.status.fopen && s.status.ffail

/-- A command in the order of checks of 60_exceptions.md R385: the slot fields (30_encoding.md R134 step 3), the
discard of a failed frame (R383), then the command's own pseudocode. -/
def State.command (s : State) (slots : List (BitVec 4)) (body : State → Except Stop State) :
    Host.Outcome State Fault Refusal :=
  if slots.all slotOk then
    if s.failedFrame then .next s.complete else s.finish (body s)
  else .next (s.takeFatal .illegalCommand)

/-- `require F.open`. -/
def State.requireOpen (s : State) : Except Stop Unit := require s.status.fopen .illegalCommand

/-! ### Loss of contents, frame end and reset -/

/-- TD and QG lose their contents (10_state.md R84): every element is unspecified, of a new loss. -/
def State.loseGrids (s : State) : State :=
  { s with qg := ⟨.free s.draw, []⟩, td := ⟨.free s.draw, []⟩, draw := s.draw + 1 }

/-- The end of a frame: F.open and F.failed to FALSE, every frame-scoped field discarded (10_state.md R84;
40_control.md R164, R165). F goes to its reset column, which no rule can tell from 'no value' (log 13). -/
def State.endFrame (s : State) : State :=
  { s.loseGrids with
    status := { s.status with fopen := false, ffail := false }
    frame := Frame.reset
    chan := Vector.replicate 8 ChanFrame.empty }

/-- BLOCK RESET while no command executes (70_reset_and_hazards.md R420): as power-on, but the memory spaces keep
their contents. The model's own fields stay. -/
def State.blockReset (s : State) : State :=
  { State.powerOn s.cfg with
    bsm := s.bsm, sim := s.sim, pcm := s.pcm, qg := s.qg, td := s.td,
    hostQ := s.hostQ, rdata := s.rdata, draw := s.draw }

end Sys2Proof.Machine
end

