-- ==== Sys2Proof/Machine/Operands.lean ====
section
/-! DEFINITION. Where commands find their operands beside the command word: the register operands of
30_encoding.md R133, the words of SIM (10_state.md R62), and the band arrays of F[c]. -/

namespace Sys2Proof.Machine

open Sys2Proof Config

/-! ### Register operands (30_encoding.md R133) -/

/-- ARG0[15:0] as FBEGIN reads it: the BSM base byte. -/
def State.argBase (s : State) : Nat := (s.arg0.extractLsb' 0 16).toNat
/-- ARG0[31:16] as FBEGIN reads it: the sequence counter. -/
def State.argSeq (s : State) : Nat := (s.arg0.extractLsb' 16 16).toNat
/-- ARG1 as FBEGIN reads it: the byte length. -/
def State.argLen (s : State) : Nat := s.arg1.toNat

/-- A group field (10_state.md R86): 4 bits, so always below 16. -/
def groupOf (g : BitVec 4) : Fin 16 := g.toFin

/-! ### Offsets of SIM[c] (10_state.md R62) -/

namespace Sim

def wlNgroups : Nat := 0x000
def wlNwin (g : Nat) : Nat := 0x010 + g
def wlTlen (g : Nat) : Nat := 0x020 + g
def wlMaxsfb (g : Nat) : Nat := 0x030 + g
def stMode : Nat := 0x040
def stMsused (g b : Nat) : Nat := 0x100 + 64 * g + b
def stAlphaSym (g b : Nat) : Nat := 0x500 + 64 * g + b
def axStartFreq : Nat := 0x900
def axStopFreq : Nat := 0x901
def axFreqScale : Nat := 0x902
def axXoverOffset : Nat := 0x903
def axNoiseSbg : Nat := 0x904
def axQmode : Nat := 0x905
def axNumEnv : Nat := 0x906
def axNumNoise : Nat := 0x907
def axBalance : Nat := 0x908
def axPartner : Nat := 0x909
def axTenv (l : Nat) : Nat := 0x910 + l
def axTnoise (q : Nat) : Nat := 0x918 + q
def axFreqres (l : Nat) : Nat := 0x920 + l
def axEnvDir (l : Nat) : Nat := 0x928 + l
def axNoiseDir (q : Nat) : Nat := 0x930 + q
def axInvfMode (j : Nat) : Nat := 0x940 + j
def axSineFlag (i : Nat) : Nat := 0x950 + i
def axEnvDelta (l i : Nat) : Nat := 0xA00 + 64 * l + i
def axNoiseDelta (q j : Nat) : Nat := 0xB80 + 8 * q + j

end Sim

/-! ### Arrays of F[c] and W[c] -/

namespace Tab

variable {α : Type} {n : Nat}

/-- The value the entry at `i` holds, if it holds one (10_state.md R83). -/
def at? (t : Tab α n) (i : Nat) : Option α := t[i]?.join

/-- The entry at `i`, IllegalCommand where it holds no value (10_state.md R83). -/
def get (t : Tab α n) (i : Nat) : Except Stop α := valueOf (t.at? i)

/-- Writes of entries, in order. -/
def put (t : Tab α n) (l : List (Nat × α)) : Tab α n :=
  l.foldl (fun t e => t.setIfInBounds e.1 (some e.2)) t

end Tab

/-- The entries of a list with their indexes from `base` on. -/
def indexed {α : Type} (base : Nat) : List α → List (Nat × α)
  | [] => []
  | x :: l => (base, x) :: indexed (base + 1) l

/-- The element of a vector at `i`, `d` past its end. -/
def atD {α : Type} {n : Nat} (v : Vector α n) (i : Nat) (d : α) : α := v[i]?.getD d

/-- A band array's index of (g, b). -/
def band (g b : Nat) : Nat := 64 * g + b

namespace ChannelState

/-- maxSfb[g]. -/
def bands (x : ChannelState) (g : Nat) : Nat := atD x.maxSfb g 0

/-- smap[s]. -/
def mapAt (x : ChannelState) (s : Nat) : Option (Nat × Nat) := atD x.smap s none

/-- S(g, b): the samples of band (g, b), in increasing order (40_control.md R167). -/
def samples (x : ChannelState) (g b : Nat) : List Nat :=
  (List.range maxTlen).filter (fun s => x.mapAt s == some (g, b))

/-- The samples of the windows of group g, in increasing order. -/
def groupSamples (x : ChannelState) (g : Nat) : List Nat :=
  (x.wins.filter (fun w => w.grp == g)).flatMap (fun w => List.range' w.off w.len)

end ChannelState

end Sys2Proof.Machine
end

