-- ==== Sys2Proof/Machine/AspxTables.lean ====
section
/-! DEFINITION. ASPX subband-group tables, patches and envelope decoding: ASPXCFG and ASPXENV (45_aspx_tables.md R300 to
R326). -/

namespace Sys2Proof.Machine

open Sys2Proof Config

/-! ### The tables -/

/-- Entry `i` of a border table. -/
def entry (t : List Nat) (i : Nat) : Nat := t.getD i 0

/-- The number of groups of a border table (45_aspx_tables.md, its head). -/
def groups (t : List Nat) : Nat := t.length - 1

/-- grp(T, m): the group of subband m (46_aspx_synthesis.md, its head). -/
def grp? (t : List Nat) (m : Nat) : Option Nat :=
  (List.range (groups t)).find? (fun i => decide (entry t i ≤ m) && decide (m < entry t (i + 1)))

/-- The checks of a border table: strictly increasing, two entries at least, all in [lo, 64] (45_aspx_tables.md R302). -/
def tableOk (lo : Nat) (t : List Nat) : Bool :=
  decide (2 ≤ t.length) && decide (t.Pairwise (· < ·)) && t.all (fun f => decide (lo ≤ f) && decide (f ≤ 64))

/-- LowRes(Hi) (45_aspx_tables.md R304). -/
def lowRes (hi : List Nat) : List Nat :=
  let nh := groups hi
  let nl := nh - nh / 2
  entry hi 0 :: (List.range nl).map (fun j =>
    let i := j + 1
    entry hi (if nh % 2 = 0 then 2 * i else 2 * i - 1))

/-- NoiseCount(nsb, sbx, sbTop) (45_aspx_tables.md R305), with 6 for every count above 5, which R302 refuses alike:
the number of n from 1 to 6 with `2^(2n−1)·sbx^(2·nsb) ≤ sbTop^(2·nsb)`, at least 1. For 1 ≤ sbx < sbTop ≤ 64 the
count is above 5 from nsb = 1000 on, so a greater nsb is taken as 1000. -/
def noiseCount (nsb : Int) (sbx sbTop : Nat) : Nat :=
  let x := min nsb.toNat 1000
  max 1 ((List.range 6).countP (fun j => decide (2 ^ (2 * j + 1) * sbx ^ (2 * x) ≤ sbTop ^ (2 * x))))

/-- The indexes into Lo of Nz[k], Nz[k+1], …, `left` of them, from `idx` on (45_aspx_tables.md R305):
`NQ + 1 − k` is `left`. -/
def noiseIndexes (nl : Nat) : Nat → Nat → List Nat
  | 0, _ => []
  | left + 1, idx =>
    let idx := idx + (nl - idx) / (left + 1)
    idx :: noiseIndexes nl left idx

/-- NoiseTable(Lo, NQ) (45_aspx_tables.md R305). -/
def noiseTable (lo : List Nat) (nq : Nat) : List Nat :=
  entry lo 0 :: (noiseIndexes (groups lo) nq 0).map (entry lo)

/-- A patch before its checks: the source start may be negative. -/
structure RawPatch where
  src : Int
  dst : Nat
  count : Nat
deriving DecidableEq, Repr

/-- Border `i` with its parity, if it is at most `k0 − 1 + msb − odd` (45_aspx_tables.md R306). -/
def borderAt (m : List Nat) (k0 msb i : Nat) : Option (Nat × Nat) :=
  let sb := entry m i
  let odd := (sb + k0) % 2
  if sb + 1 + odd ≤ k0 + msb then some (sb, odd) else none

/-- The inner loop of Patches: the first border from `i` down that is at most `k0 − 1 + msb − odd`, with its parity;
`none` if no lower border is left (45_aspx_tables.md R306). -/
def walkDown (m : List Nat) (k0 msb : Nat) : Nat → Option (Nat × Nat)
  | 0 => borderAt m k0 msb 0
  | i + 1 =>
    match borderAt m k0 msb (i + 1) with
    | some r => some r
    | none => walkDown m k0 msb i

/-- The outer loop of Patches (45_aspx_tables.md R306). A turn adds one of six patches or sets msb to sbx, and a
repeated (k, msb) ends it, so the fuel of 64 turns is never used up. -/
def patchLoop (m : List Nat) (sbx sbTop : Nat) :
    Nat → Nat → Nat → Nat → List RawPatch → Option (Nat × Nat) → Except Stop (List RawPatch)
  | 0, _, _, _, _, _ => raise .invalidAspxConfig
  | fuel + 1, k, msb, usb, ps, last =>
    let k0 := entry m 0
    let nM := m.length - 1
    if last = some (k, msb) then raise .invalidAspxConfig
    else
      match walkDown m k0 msb k with
      | none => raise .invalidAspxConfig
      | some (sb, odd) =>
        if ps.length = 6 then raise .invalidAspxConfig
        else
          let n := sb - usb
          let ps' := if 0 < n then ps ++ [⟨(k0 : Int) - odd - n, usb, n⟩] else ps
          let usb' := if 0 < n then sb else usb
          let msb' := if 0 < n then sb else sbx
          let k' := if entry m k < sb + 3 then nM else k
          if sb = sbTop then .ok ps' else patchLoop m sbx sbTop fuel k' msb' usb' ps' (some (k, msb))

/-- The trailing patch narrower than 3 is dropped if it is not the only one (45_aspx_tables.md R306). -/
def dropNarrow (ps : List RawPatch) : List RawPatch :=
  match ps.getLast? with
  | some p => if 1 < ps.length ∧ p.count < 3 then ps.dropLast else ps
  | none => ps

/-- Patches(M, sbx, sbTop) (45_aspx_tables.md R306). -/
def patchList (m : List Nat) (sbx sbTop : Nat) : Except Stop (List RawPatch) := do
  let nM := m.length - 1
  let k := if goalSb sbTop < sbTop then (m.findIdx? (fun f => decide (goalSb sbTop ≤ f))).getD nM else nM
  let ps ← patchLoop m sbx sbTop 64 k (entry m 0) sbx [] none
  pure (dropNarrow ps)

/-- `l` with `x` inserted before the first entry that is not below it. -/
def insertSorted (x : Nat) : List Nat → List Nat
  | [] => [x]
  | y :: l => if x ≤ y then x :: y :: l else y :: insertSorted x l

/-- Ascending order, equal entries kept. -/
def sortUp : List Nat → List Nat
  | [] => []
  | x :: l => insertSorted x (sortUp l)

/-- Wide(o, x): x/o is at least 49/200 octave (45_aspx_tables.md R307). -/
def wide (o x : Nat) : Bool := decide (2 ^ 49 * o ^ 200 ≤ x ^ 200)

/-- The borders of the patches from `start` on (45_aspx_tables.md R307). -/
def patchBorders (start : Nat) : List RawPatch → List Nat
  | [] => [start]
  | p :: l => start :: patchBorders (start + p.count) l

/-- The merge of LimiterTable (45_aspx_tables.md R307): `o` is the last border kept, `pb` the patch borders. -/
def limiterMerge (pb : List Nat) (o : Nat) : List Nat → List Nat
  | [] => [o]
  | x :: l =>
    if wide o x then o :: limiterMerge pb x l
    else if x = o ∨ !pb.contains x then limiterMerge pb o l
    else if !pb.contains o then limiterMerge pb x l
    else o :: limiterMerge pb x l

/-- LimiterTable(Lo, P, sbx) (45_aspx_tables.md R307). -/
def limiterTable (lo : List Nat) (ps : List RawPatch) (sbx : Nat) : List Nat :=
  let pb := patchBorders sbx ps
  let inner := (pb.drop 1).take (ps.length - 1)
  match sortUp (lo ++ inner) with
  | [] => []
  | x :: l => limiterMerge pb x l

/-- What BuildTables returns (45_aspx_tables.md R301). -/
structure AspxTabs where
  master : List Nat
  hi : List Nat
  lo : List Nat
  noise : List Nat
  lim : List Nat
  patches : List RawPatch
  sbx : Nat
  sbTop : Nat
deriving DecidableEq, Repr

/-- The checks of a patch (45_aspx_tables.md R302). -/
def patchOk (sbx sbTop : Nat) (p : RawPatch) : Bool :=
  decide (1 ≤ p.count) && decide (0 ≤ p.src) && decide (p.src + p.count ≤ sbx) && decide (p.dst + p.count ≤ sbTop)

/-- The checks of the master table (45_aspx_tables.md R302). -/
def masterOk (m : List Nat) : Bool := tableOk (entry m 0) m && decide (1 ≤ entry m 0)

/-- The checks of every table (45_aspx_tables.md R302). -/
def tablesOk (t : AspxTabs) (nq : Nat) : Bool :=
  [t.master, t.hi, t.lo, t.noise, t.lim].all (tableOk (entry t.master 0))
    && decide (1 ≤ entry t.master 0)
    && decide (groups t.hi ≤ maxSbg)
    && decide (nq ≤ maxNoiseSbg)
    && decide (t.patches.length ≤ maxPatches)
    && t.patches.all (patchOk t.sbx t.sbTop)

/-- BuildTables(cfg, xo, nsb) (45_aspx_tables.md R301). A negative xo, which names no entry of M, is refused as one
past the table is: DESIGN CHOICE (log 10). -/
def buildTables (p : Params) (cfg : Int × Int × Int) (xo nsb : Int) : Except Stop AspxTabs :=
  match p.master cfg with
  | none => raise .invalidAspxConfig
  | some m => do
    require (masterOk m) .invalidAspxConfig
    require (decide (0 ≤ xo) && decide (xo.toNat < m.length - 1)) .invalidAspxConfig
    let sbx := entry m xo.toNat
    let sbTop := entry m (m.length - 1)
    let hi := m.drop xo.toNat
    let lo := lowRes hi
    let nq := noiseCount nsb sbx sbTop
    let ps ← patchList m sbx sbTop
    let t : AspxTabs := ⟨m, hi, lo, noiseTable lo nq, limiterTable lo ps sbx, ps, sbx, sbTop⟩
    require (tablesOk t nq) .invalidAspxConfig
    pure t

/-- The ASPX table fields of W[c] <- T (45_aspx_tables.md R300). -/
def ChannelState.withTables (x : ChannelState) (t : AspxTabs) : ChannelState :=
  { x with
    sbgMaster := t.master
    sbgHi := t.hi
    sbgLo := t.lo
    sbgNoise := t.noise
    sbgLim := t.lim
    patches := t.patches.map (fun p => ⟨p.src.toNat, p.dst, p.count⟩)
    sbx := t.sbx
    sbTop := t.sbTop
    tablesValid := true }

/-! ### ASPXCFG -/

/-- The configuration words of SIM[c] (45_aspx_tables.md R300). -/
def State.aspxConfig (s : State) (c : Fin 8) : Int × Int × Int :=
  (s.simWord c Sim.axStartFreq, s.simWord c Sim.axStopFreq, s.simWord c Sim.axFreqScale)

/-- `pending` of ASPXCFG: a key frame whose configuration differs from the last one, or the first (45_aspx_tables.md
R300; 10_state.md R77). -/
def State.resetPending (s : State) (c : Fin 8) : Bool :=
  s.frame.indep && decide ((s.wAt c).cfgPrev ≠ some (s.aspxConfig c))

/-- W[c] with its tables rebuilt if they must be (45_aspx_tables.md R300). -/
def State.configuredTables (s : State) (c : Fin 8) : Except Stop ChannelState :=
  if s.resetPending c || !(s.wAt c).tablesValid then do
    let t ← buildTables s.cfg (s.aspxConfig c) (s.simWord c Sim.axXoverOffset) (s.simWord c Sim.axNoiseSbg)
    pure ((s.wAt c).withTables t)
  else .ok (s.wAt c)

/-- The pseudocode of ASPXCFG c (45_aspx_tables.md R300). -/
def aspxcfgBody (c : Fin 8) (s : State) : Except Stop State := do
  s.requireOpen
  require (s.done c .qmfa && !s.done c .axcfg) .illegalCommand
  let x ← s.configuredTables c
  let x := { x with
    masterResetPending := s.resetPending c
    cfgPrev := if s.frame.indep then some (s.aspxConfig c) else x.cfgPrev }
  pure ((s.setW c x).markDone c .axcfg)

/-- ASPXCFG c (45_aspx_tables.md R300). -/
def execAspxcfg (c : BitVec 4) (s : State) : Host.Outcome State Fault Refusal :=
  s.command [c] (aspxcfgBody (slotOf c))

/-! ### The time grid -/

/-- QDiv(AX_QMODE) (45_aspx_tables.md R326). -/
def State.qDiv (s : State) (c : Fin 8) : Except Stop Int :=
  let v := s.simWord c Sim.axQmode
  if v = 0 then .ok 2 else if v = 1 then .ok 1 else raise .invalidAspxConfig

/-- tenv[l]. -/
def State.tenv (s : State) (c : Fin 8) (l : Nat) : Int := s.simWord c (Sim.axTenv l)
/-- tnoise[q]. -/
def State.tnoise (s : State) (c : Fin 8) (q : Nat) : Int := s.simWord c (Sim.axTnoise q)
/-- r_l. -/
def State.freqRes (s : State) (c : Fin 8) (l : Nat) : Int := s.simWord c (Sim.axFreqres l)

/-- 0 or 1. -/
def isFlag (v : Int) : Bool := v == 0 || v == 1

/-- CheckGrid(c, L, LQ) (45_aspx_tables.md R321). -/
def State.gridOk (s : State) (c : Fin 8) (nEnv nNoise : Nat) : Bool :=
  s.tenv c 0 == 0 && s.frame.numTs.any (fun n => s.tenv c nEnv == (n : Int) && s.tnoise c nNoise == (n : Int))
    && (List.range nEnv).all (fun l => decide (s.tenv c l < s.tenv c (l + 1)))
    && s.tnoise c 0 == 0
    && (List.range nNoise).all (fun q => decide (s.tnoise c q < s.tnoise c (q + 1)))
    && (List.range (nNoise + 1)).all (fun q => (List.range (nEnv + 1)).any (fun l => s.tnoise c q == s.tenv c l))
    && (List.range nEnv).all (fun l => isFlag (s.freqRes c l) && isFlag (s.simWord c (Sim.axEnvDir l)))
    && (List.range nNoise).all (fun q => isFlag (s.simWord c (Sim.axNoiseDir q)))
    && (!s.frame.indep || (s.simWord c (Sim.axEnvDir 0) == 0 && s.simWord c (Sim.axNoiseDir 0) == 0))

/-! ### ASPXENV -/

/-- The signal border table of a frequency resolution (1 = high). -/
def ChannelState.sigTable (x : ChannelState) (r : Bool) : List Nat := if r then x.sbgHi else x.sbgLo

/-- Map(r, rp, i) (45_aspx_tables.md R323). -/
def resMap (x : ChannelState) (r rp : Bool) (i : Nat) : Option Nat :=
  if r = rp then some i
  else if r then grp? x.sbgLo (entry x.sbgHi i)
  else (List.range x.sbgHi.length).find? (fun k => entry x.sbgHi k == entry x.sbgLo i)

/-- The running sums `v + d₀, v + d₀ + d₁, …`. -/
def runningSums (v : Int) : List Int → List Int
  | [] => []
  | d :: l => (v + d) :: runningSums (v + d) l

/-- The values of one signal envelope (45_aspx_tables.md R322): `prev` and `rp` are the envelope before it and its
resolution. -/
def signalEnvelope (s : State) (c : Fin 8) (l : Nat) (prev : Nat → Option Int) (rp : Bool) : Except Stop (List Int) :=
  let x := s.wAt c
  let r := s.freqRes c l == 1
  let n := groups (x.sigTable r)
  if s.simWord c (Sim.axEnvDir l) = 0 then
    .ok (runningSums 0 ((List.range (max n 1)).map (fun i => s.simWord c (Sim.axEnvDelta l i))))
  else
    mapE (fun i => do
      let v ← valueOf ((resMap x r rp i).bind prev)
      pure (v + s.simWord c (Sim.axEnvDelta l i))) (List.range n)

/-- DecodeSignal over `n` envelopes from l on, each checked against 0 ≤ qscf ≤ 63·a (45_aspx_tables.md R322, R326). -/
def decodeSignal (s : State) (c : Fin 8) (a : Int) : Nat → Nat → (Nat → Option Int) → Bool → Except Stop (List (List Int))
  | 0, _, _, _ => .ok []
  | n + 1, l, prev, rp => do
    let e ← signalEnvelope s c l prev rp
    require (e.all (fun v => decide (0 ≤ v) && decide (v ≤ 63 * a))) .outOfRange
    let rest ← decodeSignal s c a n (l + 1) (fun i => e[i]?) (s.freqRes c l == 1)
    pure (e :: rest)

/-- The values of one noise envelope (45_aspx_tables.md R324): `prev` is the noise envelope before it. -/
def noiseEnvelope (s : State) (c : Fin 8) (nq q : Nat) (prev : Nat → Option Int) : Except Stop (List Int) :=
  if s.simWord c (Sim.axNoiseDir q) = 0 then
    .ok (runningSums 0 ((List.range nq).map (fun j => s.simWord c (Sim.axNoiseDelta q j))))
  else
    mapE (fun j => do
      let v ← valueOf (prev j)
      pure (v + s.simWord c (Sim.axNoiseDelta q j))) (List.range nq)

/-- DecodeNoise over `n` noise envelopes from q on, each checked against 0 ≤ qnoise ≤ 30 (45_aspx_tables.md R324,
R326). -/
def decodeNoise (s : State) (c : Fin 8) (nq : Nat) : Nat → Nat → (Nat → Option Int) → Except Stop (List (List Int))
  | 0, _, _ => .ok []
  | n + 1, q, prev => do
    let e ← noiseEnvelope s c nq q prev
    require (e.all (fun v => decide (0 ≤ v) && decide (v ≤ 30))) .outOfRange
    let rest ← decodeNoise s c nq n (q + 1) (fun j => e[j]?)
    pure (e :: rest)

/-- The rows of a two-dimensional array of row length `w` as index and value pairs. -/
def rowEntries {α : Type} (w : Nat) : Nat → List (List α) → List (Nat × α)
  | _, [] => []
  | r, e :: l => indexed (w * r) e ++ rowEntries w (r + 1) l

/-- The pseudocode of ASPXENV c (45_aspx_tables.md R320). -/
def aspxenvBody (c : Fin 8) (s : State) : Except Stop State := do
  s.requireOpen
  require (s.done c .axcfg && !s.done c .axenv) .illegalCommand
  let nEnv := s.simWord c Sim.axNumEnv
  let nNoise := s.simWord c Sim.axNumNoise
  let a ← s.qDiv c
  require (decide (1 ≤ nEnv) && decide (nEnv ≤ maxEnv)) .invalidAspxConfig
  require (decide (1 ≤ nNoise) && decide (nNoise ≤ maxNoiseEnv) && decide (nNoise ≤ nEnv)) .invalidAspxConfig
  require (s.gridOk c nEnv.toNat nNoise.toNat) .invalidAspxConfig
  let x := s.wAt c
  let f := s.chanAt c
  let nq := groups x.sbgNoise
  let sig ← decodeSignal s c a nEnv.toNat 0 (fun i => x.qscfPrev[i]?) x.freqResPrev
  let noise ← decodeNoise s c nq nNoise.toNat 0 (fun j => x.qnoisePrev[j]?)
  let rLast := s.freqRes c (nEnv.toNat - 1) == 1
  let lastSig := sig.getLast?.getD []
  let lastNoise := noise.getLast?.getD []
  let x := { x with
    qscfPrev := Vector.ofFn (fun i => if i.val < groups (x.sigTable rLast) then lastSig.getD i.val 0 else 0)
    freqResPrev := rLast
    qnoisePrev := Vector.ofFn (fun j => if j.val < nq then lastNoise.getD j.val 0 else 0) }
  let f := { f with
    qscf := Tab.put f.qscf (rowEntries maxSbg 0 sig)
    qnoise := Tab.put f.qnoise (rowEntries maxNoiseSbg 0 noise) }
  pure (((s.setW c x).setChan c f).markDone c .axenv)

/-- ASPXENV c (45_aspx_tables.md R320). -/
def execAspxenv (c : BitVec 4) (s : State) : Host.Outcome State Fault Refusal :=
  s.command [c] (aspxenvBody (slotOf c))

end Sys2Proof.Machine
end

