-- ==== Sys2Proof/Machine/Numeric.lean ====
section
/-! DEFINITION. The numeric type R as its reference instance, IEEE 754 binary32 with round-to-nearest-even
(00_scope.md R21, R22; 60_exceptions.md R392), on encodings, in exact integer arithmetic. Every operation computes its
exact result, or an integer with a sticky low bit that stands for it, and rounds once. PRESUMED (log 5). -/

namespace Sys2Proof.Machine

open Sys2Proof Config

namespace R32

/-! ### Encodings -/

/-- The sign bit. -/
def sign (x : Real32) : Bool := x.getLsbD 31
/-- The biased exponent. -/
def expo (x : Real32) : Nat := (x.toNat / 2 ^ 23) % 256
/-- The fraction field. -/
def frac (x : Real32) : Nat := x.toNat % 2 ^ 23
/-- A NaN. -/
def isNaN (x : Real32) : Bool := expo x == 255 && frac x != 0
/-- An infinity. -/
def isInf (x : Real32) : Bool := expo x == 255 && frac x == 0
/-- The significand of a finite value as an integer; subnormals are kept (60_exceptions.md R392). -/
def mant (x : Real32) : Nat := if expo x = 0 then frac x else 2 ^ 23 + frac x
/-- The exponent of the unit of `mant`. -/
def unit (x : Real32) : Int := (if expo x = 0 then 1 else expo x : Nat) - 150
/-- ±0. -/
def isZero (x : Real32) : Bool := x.toNat % 2 ^ 31 == 0

/-- An encoding from its sign and its low 31 bits. -/
def pack (s : Bool) (low : Nat) : Real32 := BitVec.ofNat 32 ((if s then 2 ^ 31 else 0) + low)
/-- ±∞. -/
def inf (s : Bool) : Real32 := pack s (255 * 2 ^ 23)
/-- The quiet NaN of an operation on its operands, of free sign and payload (60_exceptions.md R392; log 6). -/
def nan (op : NumOp) (a b : Real32) : Real32 :=
  BitVec.extractLsb' 22 1 (nanBits op a b) ++ 0xFF#8 ++ 1#1 ++ BitVec.extractLsb' 0 22 (nanBits op a b)

/-! ### Rounding -/

/-- `m / 2^k` to the nearest integer, ties to even. -/
def shiftRound (m k : Nat) : Nat :=
  if k = 0 then m
  else if m.log2 + 2 < k then 0
  else
    let q := m >>> k
    let r := m % 2 ^ k
    if r > 2 ^ (k - 1) ∨ (r = 2 ^ (k - 1) ∧ q % 2 = 1) then q + 1 else q

/-- `(-1)^s · m · 2^e` rounded to binary32, round-to-nearest-even; overflow gives ±∞. -/
def round (s : Bool) (m : Nat) (e : Int) : Real32 :=
  if m = 0 then pack s 0
  else
    let q : Int := max (e + m.log2 - 23) (-149)
    if 128 < q then inf s
    else
      let n := if q ≤ e then m <<< (e - q).toNat else shiftRound m (q - e).toNat
      let low := (q + 149).toNat * 2 ^ 23 + n
      if 255 * 2 ^ 23 ≤ low then inf s else pack s low

/-- The element of R nearest to the integer `n` (00_scope.md R28). -/
def ofInt (n : Int) : Real32 := round (n < 0) n.natAbs 0

/-- The element of R nearest to `n / d`, for constants written in decimal (46_aspx_synthesis.md, its head). -/
def ofRat (n d : Nat) : Real32 :=
  let x := n <<< 120
  round false (2 * (x / d) + (if x % d = 0 then 0 else 1)) (-121)

/-! ### Arithmetic -/

/-- `-x`: the sign bit flipped, also of a 0 or a NaN: DEDUCED (log 17). -/
def neg (x : Real32) : Real32 := x ^^^ 0x80000000#32

/-- `m · 2^e` over the unit `2^u`, for `u ≤ e`, signed. -/
def scaled (s : Bool) (m : Nat) (e u : Int) : Int :=
  let v : Int := (m <<< (e - u).toNat : Nat)
  if s then -v else v

/-- `x + y`. An exact zero sum is −0 only if both operands are negative. -/
def add (x y : Real32) : Real32 :=
  if isNaN x || isNaN y then nan .add x y
  else if isInf x then (if isInf y && sign x != sign y then nan .add x y else x)
  else if isInf y then y
  else
    let u := min (unit x) (unit y)
    let v := scaled (sign x) (mant x) (unit x) u + scaled (sign y) (mant y) (unit y) u
    if v = 0 then pack (sign x && sign y) 0 else round (v < 0) v.natAbs u

/-- `x − y`. -/
def sub (x y : Real32) : Real32 := add x (neg y)

/-- `x × y`. -/
def mul (x y : Real32) : Real32 :=
  let s := sign x != sign y
  if isNaN x || isNaN y then nan .mul x y
  else if isInf x || isInf y then (if isZero x || isZero y then nan .mul x y else inf s)
  else round s (mant x * mant y) (unit x + unit y)

/-- `x ÷ y`. -/
def div (x y : Real32) : Real32 :=
  let s := sign x != sign y
  if isNaN x || isNaN y then nan .div x y
  else if isInf x then (if isInf y then nan .div x y else inf s)
  else if isInf y then pack s 0
  else if isZero y then (if isZero x then nan .div x y else inf s)
  else
    let n := mant x <<< 60
    round s (2 * (n / mant y) + (if n % mant y = 0 then 0 else 1)) (unit x - unit y - 61)

/-- The greatest `r + Σ bits` with `k`-th power at most `x`, deciding the bits below `2^n` from the top. -/
def rootBits (k x : Nat) : Nat → Nat → Nat
  | 0, r => r
  | n + 1, r => rootBits k x n (if (r + 2 ^ n) ^ k ≤ x then r + 2 ^ n else r)

/-- `⌊x^(1/k)⌋`. -/
def iroot (k x : Nat) : Nat := rootBits k x (x.log2 / k + 1) 0

/-- `√x`; of a negative value an invalid operation. -/
def sqrt (x : Real32) : Real32 :=
  if isNaN x then nan .sqrt x 0
  else if isZero x then x
  else if sign x then nan .sqrt x 0
  else if isInf x then x
  else
    let k : Nat := if (unit x) % 2 = 0 then 60 else 61
    let m := mant x <<< k
    let r := iroot 2 m
    round false (2 * r + (if r * r = m then 0 else 1)) ((unit x - k) / 2 - 1)

/-- `pow2(n/4)`, exactly rounded. -/
def pow2Quarter (n : Int) : Real32 :=
  let j := n / 4
  let r := (n % 4).toNat
  if r = 0 then round false 1 j else round false (2 * iroot 4 (2 ^ (r + 240)) + 1) (j - 61)

/-- `pow2(x)` = 2^x (00_scope.md R21). Every argument the rules form is a multiple of 1/4 or not finite. -/
def pow2 (x : Real32) : Real32 :=
  if isNaN x then nan .pow2 x 0
  else if isInf x then (if sign x then 0 else x)
  else if isZero x then round false 1 0
  else if -2 ≤ unit x then pow2Quarter (scaled (sign x) (mant x) (unit x) (-2))
  else
    let k := (-2 - unit x).toNat
    if mant x % 2 ^ k = 0 then pow2Quarter (scaled (sign x) (mant x >>> k) 0 0) else pow2Other x

/-! ### Comparison -/

/-- An integer that orders the values that are no NaN; both zeros have 0. -/
def key (x : Real32) : Int := if sign x then -(x.toNat % 2 ^ 31 : Nat) else (x.toNat % 2 ^ 31 : Nat)
/-- `x < y`, false on a NaN. -/
def lt (x y : Real32) : Bool := !isNaN x && !isNaN y && decide (key x < key y)
/-- `x ≤ y`, false on a NaN. -/
def le (x y : Real32) : Bool := !isNaN x && !isNaN y && decide (key x ≤ key y)
/-- `x = y` as numbers, false on a NaN. -/
def eq (x y : Real32) : Bool := !isNaN x && !isNaN y && decide (key x = key y)
/-- `min(x, y)`; a NaN operand propagates (60_exceptions.md R392). -/
def min (x y : Real32) : Real32 :=
  if isNaN x || isNaN y then nan .min x y else if lt y x then y else x

/-- A sum, a left fold from the first term; the empty sum is 0 (00_scope.md R21). -/
def sum : List Real32 → Real32
  | [] => 0
  | x :: l => l.foldl add x

/-! ### Cosine and sine of rational multiples of π -/

/-- ⌊π · 2^160⌋. -/
def piFix : Nat := 4591442807048218921384805199743311128454155024418

/-- The Taylor tail `t − t·x²/(k(k+1)) + …` over the unit 2^-160, `n` terms, `t` the term in hand. -/
def taylor (x2 : Nat) : Nat → Nat → Nat → Int
  | 0, _, _ => 0
  | n + 1, k, t => (t : Int) - taylor x2 n (k + 2) (((t * x2) >>> 160) / (k * (k + 1)))

/-- `cos(π·a/b)` for `0 ≤ a/b ≤ 1/4` over the unit 2^-160. -/
def cosSmall (a b : Nat) : Nat :=
  let x := piFix * a / b
  (taylor ((x * x) >>> 160) 24 1 (2 ^ 160)).toNat

/-- `sin(π·a/b)` for `0 ≤ a/b ≤ 1/4` over the unit 2^-160. -/
def sinSmall (a b : Nat) : Nat :=
  let x := piFix * a / b
  (taylor ((x * x) >>> 160) 24 2 x).toNat

/-- The element of R nearest to cos(π·p/q). -/
def cosPi (p : Int) (q : Nat) : Real32 :=
  let r := (p % (2 * q : Nat)).toNat
  let r := if q < r then 2 * q - r else r
  let s := decide (q < 2 * r)
  let r := if s then q - r else r
  if 2 * r = q then pack false 0
  else if 4 * r ≤ q then round s (cosSmall r q) (-160)
  else round s (sinSmall (q - 2 * r) (2 * q)) (-160)

/-- The element of R nearest to sin(π·p/q). -/
def sinPi (p : Int) (q : Nat) : Real32 := cosPi (q - 2 * p) (2 * q)

end R32

/-! ### Complex values (00_scope.md R22) -/

namespace Cx

open R32

/-- `(a+ib) + (c+id)`. -/
def add (x y : Cplx) : Cplx := ⟨R32.add x.re y.re, R32.add x.im y.im⟩
/-- `(a+ib) − (c+id) = (a−c) + i(b−d)`, which R22 does not expand: DEDUCED (log 17). -/
def sub (x y : Cplx) : Cplx := ⟨R32.sub x.re y.re, R32.sub x.im y.im⟩
/-- `(a+ib) × (c+id)`, the products rounded before the subtraction and the addition. -/
def mul (x y : Cplx) : Cplx :=
  ⟨R32.sub (R32.mul x.re y.re) (R32.mul x.im y.im), R32.add (R32.mul x.re y.im) (R32.mul x.im y.re)⟩
/-- `conj(z)`, the sign of the imaginary part flipped: DEDUCED (log 17). -/
def conj (x : Cplx) : Cplx := ⟨x.re, R32.neg x.im⟩
/-- `−z`, the sign of each part flipped, also of a 0; R22 does not expand it: DEDUCED (log 17). -/
def neg (x : Cplx) : Cplx := ⟨R32.neg x.re, R32.neg x.im⟩
/-- `|z|²`. -/
def norm2 (x : Cplx) : Real32 := R32.add (R32.mul x.re x.re) (R32.mul x.im x.im)
/-- `s × z` for a Real s. -/
def smul (s : Real32) (x : Cplx) : Cplx := ⟨R32.mul s x.re, R32.mul s x.im⟩
/-- `z ÷ s` for a Real s: the division applied to each part: DEDUCED (log 17). -/
def sdiv (x : Cplx) (s : Real32) : Cplx := ⟨R32.div x.re s, R32.div x.im s⟩
/-- `z ÷ w` = z × conj(w) ÷ |w|². No rule divides by a Complex that is not Real. -/
def div (x y : Cplx) : Cplx := sdiv (mul x (conj y)) (norm2 y)

/-- A complex sum, a left fold from the first term. -/
def sum : List Cplx → Cplx
  | [] => Cplx.zero
  | x :: l => l.foldl add x

end Cx

end Sys2Proof.Machine
end

