-- ==== Sys2Proof/Machine/Tables.lean ====
section
/-! DEFINITION. The parameters of 00_scope.md R15 that are values of R or functions into it, at their defaults
(log 8), and the decimal constants of the rules, each the element of R nearest to it. -/

namespace Sys2Proof.Machine.Tables

open Sys2Proof Config

/-! ### Transform (43_stereo_imdct.md) -/

/-- PROTO_WIN(L)[n], the sine window of R259: sin(π/(2L)·(n + ½)). -/
def protoWin (l n : Nat) : Real32 := R32.sinPi (2 * n + 1 : Nat) (4 * l)

/-- IMDCT_SCALE(N) = 2/N (R257). -/
def imdctScale (n : Nat) : Real32 := R32.div (R32.ofInt 2) (R32.ofInt n)

/-- COSK(N, n, k), the element nearest to cos(π/N·(n + ½ + N/2)·(k + ½)) (R257). -/
def cosK (len n k : Nat) : Real32 := R32.cosPi ((2 * n + 1 + len) * (2 * k + 1) : Nat) (4 * len)

/-- Rise(N, L, n) (R258). -/
def rise (len l n : Nat) : Real32 :=
  if n < (len - l) / 2 then 0
  else if n < (len + l) / 2 then protoWin l (n - (len - l) / 2)
  else R32.ofInt 1

/-- Fall(Np, L, m) (R258). -/
def fall (np l m : Nat) : Real32 :=
  if m < (np - l) / 2 then R32.ofInt 1
  else if m < (np + l) / 2 then protoWin l (l - 1 - (m - (np - l) / 2))
  else 0

/-! ### Filterbank (44_qmf.md) -/

/-- QMF_IN_SCALE = 1 (R288). -/
def qmfInScale : Real32 := R32.ofInt 1
/-- QMF_OUT_SCALE = 1/QMF_IN_SCALE (R288). -/
def qmfOutScale : Real32 := R32.div (R32.ofInt 1) qmfInScale

/-- QMF_ANA_KERNEL(k, n) = exp(iπ·(k + ½)·(2n − ½)/128) (R281). -/
def anaKernel (k n : Nat) : Cplx :=
  let p : Int := (2 * k + 1) * (4 * n - 1)
  ⟨R32.cosPi p 512, R32.sinPi p 512⟩

/-- QMF_SYN_KERNEL(k, n) = (1/64)·exp(iπ·(k + ½)·(2n − 255)/128) (R285). -/
def synKernel (k n : Nat) : Cplx :=
  let p : Int := (2 * k + 1) * (2 * n - 255)
  let s := R32.ofRat 1 64
  ⟨R32.mul s (R32.cosPi p 256), R32.mul s (R32.sinPi p 256)⟩

/-! ### Spectral front end (42_spectral.md) -/

/-- DEQUANT(n) = n^(4/3) (R227), the nearest element of R. -/
def dequant (n : Nat) : Real32 :=
  let x := n ^ 4 <<< 240
  let r := R32.iroot 3 x
  R32.round false (2 * r + (if r ^ 3 = x then 0 else 1)) (-81)

/-- gain(sf) = pow2(0.25 × R(sf − 100)) (R219). -/
def sfGain (sf : Int) : Real32 := R32.pow2 (R32.mul (R32.ofRat 1 4) (R32.ofInt (sf - 100)))

/-- R(0.1) (43_stereo_imdct.md R252). -/
def tenth : Real32 := R32.ofRat 1 10

/-! ### ASPX (46_aspx_synthesis.md) -/

/-- ENV_SCALE = 64 (R351). -/
def envScale : Real32 := R32.ofInt 64
/-- LIM_GAIN = 1.41254 (R356). -/
def limGain : Real32 := R32.ofRat 141254 100000
/-- The cap 1e5 (R356). -/
def gainCap : Real32 := R32.ofInt 100000
/-- GBOOST_MAX = 1.584893192 (R357). -/
def boostMax : Real32 := R32.ofRat 1584893192 1000000000
/-- The threshold 1e-6 (R342). -/
def lpcFloor : Real32 := R32.ofRat 1 1000000
/-- The chirp snap 0.015625 (R344). -/
def chirpFloor : Real32 := R32.ofRat 1 64

/-- SINE_RE (R366). -/
def sineRe (s : Fin 4) : Real32 := R32.ofInt (match s with | 0 => 1 | 1 => 0 | 2 => -1 | 3 => 0)
/-- SINE_IM (R366). -/
def sineIm (s : Fin 4) : Real32 := R32.ofInt (match s with | 0 => 0 | 1 => 1 | 2 => 0 | 3 => -1)

/-- Sine(s, m) = (SINE_RE[s], (−1)^m × SINE_IM[s]) (R366). -/
def sine (s : Fin 4) (m : Nat) : Cplx := ⟨sineRe s, R32.mul (R32.ofInt (if m % 2 = 0 then 1 else -1)) (sineIm s)⟩

end Sys2Proof.Machine.Tables
end

