-- ==== Sys2Proof/Machine/Qmf.lean ====
section
/-! DEFINITION. The QMF filterbank: QMFA and QMFS (44_qmf.md R280 to R288). -/

namespace Sys2Proof.Machine

open Sys2Proof Config

/-- The QG element of the real part of Q[c][ts][k]; the imaginary part follows it (10_state.md R64). -/
def qgIndex (c ts k : Nat) : Nat := ((c * maxTs + ts) * 64 + k) * 2

/-- Q[c][ts][k] (10_state.md R64). -/
def State.gridAt (s : State) (c ts k : Nat) : Cplx := ⟨s.qgElem (qgIndex c ts k), s.qgElem (qgIndex c ts k + 1)⟩

/-- The two elements of one complex value. -/
def cplxElems (z : Cplx) : List Word := [z.re, z.im]

/-! ### Analysis -/

/-- The analysis line after one slot of 64 samples is injected, the newest at qa[0] (44_qmf.md R281). -/
def injectSlot (qa : Vector Real32 640) (x : List Real32) : Vector Real32 640 :=
  Vector.ofFn (fun n =>
    if n.val < 64 then R32.mul Tables.qmfInScale (x.getD (63 - n.val) 0) else atD qa (n.val - 64) 0)

/-- u[n] (44_qmf.md R281). -/
def analysisBlock (win qa : Vector Real32 640) (n : Nat) : Real32 :=
  R32.sum ((List.range 5).map (fun j => R32.mul (atD qa (n + 128 * j) 0) (atD win (n + 128 * j) 0)))

/-- The subbands of one timeslot from the analysis line (44_qmf.md R281). -/
def analysisSlot (win qa : Vector Real32 640) : Slot :=
  let u := Vector.ofFn (n := 128) (fun n => analysisBlock win qa n.val)
  Vector.ofFn (fun k =>
    ⟨R32.sum ((List.range 128).map (fun n => R32.mul (atD u n 0) (Tables.anaKernel k.val n).re)),
     R32.sum ((List.range 128).map (fun n => R32.mul (atD u n 0) (Tables.anaKernel k.val n).im))⟩)

/-- AnalysisSlot for each slot of samples in order: the line after them and the subbands of each (44_qmf.md R280). -/
def analyse (win : Vector Real32 640) : Vector Real32 640 → List (List Real32) → Vector Real32 640 × List Slot
  | qa, [] => (qa, [])
  | qa, x :: l =>
    let qa := injectSlot qa x
    let r := analyse win qa l
    (r.1, analysisSlot win qa :: r.2)

/-- QG with the rows of channel c from timeslot ts on (44_qmf.md R280). -/
def writeRows (m : Memory Word) (c : Nat) : Nat → List Slot → Memory Word
  | _, [] => m
  | ts, row :: l => writeRows (m.setRun (qgIndex c ts 0) (row.toList.flatMap cplxElems)) c (ts + 1) l

/-- The 64 samples of timeslot ts of TD[c]; IllegalCommand where IMDCT wrote none (10_state.md R83). -/
def State.tdSlot (s : State) (c ts : Nat) : Except Stop (List Real32) :=
  mapE (fun j => valueOf (s.td.get? (c * pcmStride + 64 * ts + j))) (List.range 64)

/-- F.numTs, InvalidBlockConfig(timeslots) where it is NONE (44_qmf.md R280, R284). -/
def State.requireSlots (s : State) : Except Stop Nat :=
  match s.frame.numTs with
  | some n => .ok n
  | none => raise .invalidBlockConfig

/-- The checks of QMFA before its first timeslot, and the timeslots (44_qmf.md R280). -/
def State.requireQmfa (s : State) (c : Fin 8) : Except Stop Nat := do
  s.requireOpen
  require (s.done c .imdct && !s.done c .qmfa) .illegalCommand
  s.requireSlots

/-- The pseudocode of QMFA c (44_qmf.md R280, R282). Entry t of Qlow is at index t + HIST_TS. -/
def qmfaBody (c : Fin 8) (s : State) : Except Stop State := do
  let numTs ← s.requireQmfa c
  let x := s.wAt c
  let input ← mapE (s.tdSlot c.val) (List.range numTs)
  let r := analyse s.cfg.qmfWin x.qa input
  let qlow := x.qhist ++ r.2
  let s := { s with qg := writeRows s.qg c.val 0 r.2 }
  let s := s.setW c { x with qa := r.1, qhist := qlow.drop numTs }
  let s := s.setChan c { s.chanAt c with qlow := some qlow }
  pure (s.markDone c .qmfa)

/-- QMFA c (44_qmf.md R280). -/
def execQmfa (c : BitVec 4) (s : State) : Host.Outcome State Fault Refusal :=
  s.command [c] (qmfaBody (slotOf c))

/-! ### Synthesis -/

/-- The new tap n of the synthesis line (44_qmf.md R285). -/
def synthesisTap (row : Slot) (n : Nat) : Real32 :=
  R32.sum ((List.finRange 64).map (fun k =>
    R32.sub (R32.mul (row.get k).re (Tables.synKernel k.val n).re)
      (R32.mul (row.get k).im (Tables.synKernel k.val n).im)))

/-- The synthesis line after one timeslot (44_qmf.md R285). -/
def shiftSynthesis (qs : Vector Real32 1280) (row : Slot) : Vector Real32 1280 :=
  Vector.ofFn (fun n => if n.val < 128 then synthesisTap row n.val else atD qs (n.val - 128) 0)

/-- gq[64 i + j] (44_qmf.md R285): even i from the start, odd i from 192 on, of each run of 256 taps. -/
def gathered (qs : Vector Real32 1280) (i j : Nat) : Real32 :=
  atD qs (256 * (i / 2) + (if i % 2 = 0 then 0 else 192) + j) 0

/-- The 64 samples of one timeslot (44_qmf.md R285). -/
def synthesisOut (win : Vector Real32 640) (qs : Vector Real32 1280) : List Real32 :=
  (List.range 64).map (fun j =>
    R32.mul Tables.qmfOutScale
      (R32.sum ((List.range 10).map (fun i => R32.mul (gathered qs i j) (atD win (64 * i + j) 0)))))

/-- SynthesisSlot for each row in order: the line after them and the samples of all (44_qmf.md R284). -/
def synthesise (win : Vector Real32 640) : Vector Real32 1280 → List Slot → Vector Real32 1280 × List Real32
  | qs, [] => (qs, [])
  | qs, row :: l =>
    let qs := shiftSynthesis qs row
    let r := synthesise win qs l
    (r.1, synthesisOut win qs ++ r.2)

/-- Row ts of Q[c]. -/
def State.gridRow (s : State) (c ts : Nat) : Slot := Vector.ofFn (fun k => s.gridAt c ts k.val)

/-- The checks of QMFS before its first timeslot, and the timeslots (44_qmf.md R284). -/
def State.requireQmfs (s : State) (c : Fin 8) : Except Stop Nat := do
  s.requireOpen
  require (s.done c .qmfa && !s.done c .qmfs) .illegalCommand
  require (!s.done c .axcfg || s.done c .axasm) .illegalCommand
  s.requireSlots

/-- The pseudocode of QMFS c (44_qmf.md R284). -/
def qmfsBody (c : Fin 8) (s : State) : Except Stop State := do
  let numTs ← s.requireQmfs c
  let x := s.wAt c
  let r := synthesise s.cfg.qmfWin x.qs ((List.range numTs).map (s.gridRow c.val))
  let s := { s with pcm := s.pcm.setRun (c.val * pcmStride) r.2 }
  pure ((s.setW c { x with qs := r.1 }).markDone c .qmfs)

/-- QMFS c (44_qmf.md R284). -/
def execQmfs (c : BitVec 4) (s : State) : Host.Outcome State Fault Refusal :=
  s.command [c] (qmfsBody (slotOf c))

end Sys2Proof.Machine
end

