-- ==== Sys2Proof/Machine/AspxSynth.lean ====
section
/-! DEFINITION. ASPX high-band generation, gain control and assembly: ASPXHF, ASPXGAIN, ASPXASM (46_aspx_synthesis.md
R340 to R366). -/

namespace Sys2Proof.Machine

open Sys2Proof Config

/-! ### ASPXHF -/

/-- Xl[t][p] from `qlow`, whose entry t is at index t + HIST_TS (44_qmf.md R280); IllegalCommand where there is none. -/
def lowBand (hist : Nat) (qlow : List Slot) (t : Int) (p : Nat) : Except Stop Cplx :=
  if 0 ≤ t + hist then valueOf ((qlow[(t + hist).toNat]?).bind (·[p]?)) else raise .illegalCommand

/-- phi(i, j) of subband p (46_aspx_synthesis.md R341): the window starts ASPX_DELAY slots before the frame and is
COV_LEN = numTs + ASPX_DELAY slots long. -/
def covariance (p : Params) (qlow : List Slot) (numTs sb i j : Nat) : Except Stop Cplx := do
  let terms ← mapE (fun n => do
    let t : Int := (n : Int) - p.aspxDelay
    let a ← lowBand p.histTs qlow (t - i) sb
    let b ← lowBand p.histTs qlow (t - j) sb
    pure (Cx.mul a (Cx.conj b))) (List.range (numTs + p.aspxDelay))
  pure (Cx.sum terms)

/-- The normal equations of R342 on the covariance: (alpha0, alpha1). -/
def solvePredictor (p01 p02 p11 p12 p22 : Cplx) : Cplx × Cplx :=
  let r11 := p11.re
  let r22 := p22.re
  let d := R32.sub (R32.mul r22 r11) (Cx.norm2 p12)
  let alpha1 :=
    if R32.le (R32.mul d d) Tables.lpcFloor then Cplx.zero
    else Cx.sdiv (Cx.sub (Cx.mul p01 p12) (Cx.smul r11 p02)) d
  let alpha0 :=
    if R32.le (R32.mul r11 r11) Tables.lpcFloor then Cplx.zero
    else Cx.neg (Cx.sdiv (Cx.add p01 (Cx.mul alpha1 (Cx.conj p12))) r11)
  (alpha0, alpha1)

/-- Predictor(p) (46_aspx_synthesis.md R342). -/
def predictor (p : Params) (qlow : List Slot) (numTs sb : Nat) : Except Stop (Cplx × Cplx) := do
  let p01 ← covariance p qlow numTs sb 0 1
  let p02 ← covariance p qlow numTs sb 0 2
  let p11 ← covariance p qlow numTs sb 1 1
  let p12 ← covariance p qlow numTs sb 1 2
  let p22 ← covariance p qlow numTs sb 2 2
  pure (solvePredictor p01 p02 p11 p12 p22)

/-- NewBw(mode, prevMode) (46_aspx_synthesis.md R343). -/
def newBw (mode prev : Fin 4) : Real32 :=
  if mode = 0 then (if prev = 1 then R32.ofRat 6 10 else 0)
  else if mode = 1 then (if prev = 0 then R32.ofRat 6 10 else R32.ofRat 75 100)
  else if mode = 2 then R32.ofRat 9 10
  else R32.ofRat 98 100

/-- Chirp(mode, prevMode, prevBw) (46_aspx_synthesis.md R344). -/
def chirp (mode prev : Fin 4) (prevBw : Real32) : Real32 :=
  let nb := newBw mode prev
  let bw :=
    if R32.lt nb prevBw then
      R32.add (R32.mul (R32.ofRat 75 100) nb) (R32.mul (R32.ofRat 25 100) prevBw)
    else R32.add (R32.mul (R32.ofRat 90625 100000) nb) (R32.mul (R32.ofRat 9375 100000) prevBw)
  if R32.lt bw Tables.chirpFloor then 0 else bw

/-- HFSample(p, b, ts) (46_aspx_synthesis.md R345) with the predictor (alpha0, alpha1). -/
def hfSample (p : Params) (qlow : List Slot) (alpha : Cplx × Cplx) (sb : Nat) (b : Real32) (ts : Nat) :
    Except Stop Cplx := do
  let t : Int := (ts : Int) - p.aspxDelay
  let x0 ← lowBand p.histTs qlow t sb
  let x1 ← lowBand p.histTs qlow (t - 1) sb
  let x2 ← lowBand p.histTs qlow (t - 2) sb
  pure (Cx.add (Cx.add x0 (Cx.mul (Cx.smul b alpha.1) x1)) (Cx.mul (Cx.smul (R32.mul b b) alpha.2) x2))

/-- An inverse-filtering mode of SIM (46_aspx_synthesis.md R340). -/
def invfMode (v : Int) : Except Stop (Fin 4) :=
  if v = 0 then .ok 0 else if v = 1 then .ok 1 else if v = 2 then .ok 2 else if v = 3 then .ok 3
  else raise .invalidAspxConfig

/-- The index of Qhigh[ts][m]. -/
def hiIndex (ts m : Nat) : Nat := 64 * ts + m

/-- The Qhigh entries of target subband `k` fed by source subband `src` (46_aspx_synthesis.md R340). -/
def hfColumn (p : Params) (qlow : List Slot) (numTs : Nat) (alphas : List (Cplx × Cplx)) (noise : List Nat)
    (bw : List Real32) (src k : Nat) : Except Stop (List (Nat × Cplx)) := do
  let j ← valueOf (grp? noise k)
  let b ← valueOf bw[j]?
  let alpha ← valueOf alphas[src]?
  mapE (fun ts => do
    let y ← hfSample p qlow alpha src b ts
    pure (hiIndex ts k, y)) (List.range numTs)

/-- The pairs (source, target) a patch list feeds (45_aspx_tables.md R306). -/
def patchPairs (ps : List Patch) : List (Nat × Nat) :=
  ps.flatMap (fun p => (List.range p.count).map (fun x => (p.src + x, p.dst + x)))

/-- The pseudocode of ASPXHF c (46_aspx_synthesis.md R340). -/
def aspxhfBody (c : Fin 8) (s : State) : Except Stop State := do
  s.requireOpen
  require (s.done c .axenv && !s.done c .axhf) .illegalCommand
  let x := s.wAt c
  let f := s.chanAt c
  let nq := groups x.sbgNoise
  let modes ← mapE (fun j => invfMode (s.simWord c (Sim.axInvfMode j))) (List.range nq)
  let numTs ← valueOf s.frame.numTs
  let qlow ← valueOf f.qlow
  let alphas ← mapE (predictor s.cfg qlow numTs) (List.range x.sbx)
  let bw := (indexed 0 modes).map (fun e => chirp e.2 (atD x.invfPrev e.1 0) (atD x.chirpPrev e.1 0))
  let zeros := (List.range' x.sbx (x.sbTop - x.sbx)).flatMap
    (fun m => (List.range numTs).map (fun ts => (hiIndex ts m, Cplx.zero)))
  let cols ← mapE (fun e => hfColumn s.cfg qlow numTs alphas x.sbgNoise bw e.1 e.2) (patchPairs x.patches)
  let f := { f with
    qhigh := Tab.put f.qhigh (zeros ++ cols.flatten)
    chirp := Tab.put f.chirp (indexed 0 bw) }
  let x := { x with
    chirpPrev := Vector.ofFn (fun j => bw[j.val]?.getD (x.chirpPrev.get j))
    invfPrev := Vector.ofFn (fun j => modes[j.val]?.getD (x.invfPrev.get j))
    alphaPrev := Vector.ofFn (fun p => alphas[p.val]?.getD (x.alphaPrev.get p)) }
  pure (((s.setW c x).setChan c f).markDone c .axhf)

/-- ASPXHF c (46_aspx_synthesis.md R340). -/
def execAspxhf (c : BitVec 4) (s : State) : Host.Outcome State Fault Refusal :=
  s.command [c] (aspxhfBody (slotOf c))

/-! ### ASPXGAIN: balance coding -/

/-- `n` words of SIM[c] and SIM[p] from offset `base` on are equal, those past the region's end left out: no word is
there (log 11). -/
def State.sameWords (s : State) (c p : Fin 8) (base n : Nat) : Bool :=
  (List.range (min n (simStride - base))).all (fun k => s.simWord c (base + k) == s.simWord p (base + k))

/-- The grids (L, tenv, r_l, LQ, tnoise) of two channels agree (46_aspx_synthesis.md R352): tenv[l] for l ≤ L, r_l for
l < L, tnoise[q] for q ≤ LQ, whatever the counts of SIM are now (70_reset_and_hazards.md R432 (b)). -/
def State.gridsAgree (s : State) (c p : Fin 8) : Bool :=
  let n := s.simWord c Sim.axNumEnv
  let nq := s.simWord c Sim.axNumNoise
  n == s.simWord p Sim.axNumEnv && nq == s.simWord p Sim.axNumNoise
    && s.sameWords c p (Sim.axTenv 0) (n + 1).toNat
    && s.sameWords c p (Sim.axFreqres 0) n.toNat
    && s.sameWords c p (Sim.axTnoise 0) (nq + 1).toNat

/-- BalanceSetup(c) (46_aspx_synthesis.md R352): the partner slot, if there is one. `a` is QDiv of c. -/
def balanceSetup (s : State) (c : Fin 8) (a : Int) : Except Stop (Option (Fin 8)) := do
  let v := s.simWord c Sim.axBalance
  if v = 0 then pure none
  else
    require (v == 1) .invalidAspxConfig
    let q := s.simWord c Sim.axPartner
    if h : 0 ≤ q ∧ q < 8 then
      let p : Fin 8 := ⟨q.toNat, by omega⟩
      require (decide (p ≠ c)) .invalidAspxConfig
      require (s.done p .axenv) .illegalCommand
      require (s.simWord p Sim.axBalance == 1 && s.simWord p Sim.axPartner == (c.val : Int)) .invalidAspxConfig
      require (s.gridsAgree c p) .invalidAspxConfig
      require (decide ((s.wAt p).sbgHi = (s.wAt c).sbgHi) && decide ((s.wAt p).sbgLo = (s.wAt c).sbgLo)
        && decide ((s.wAt p).sbgNoise = (s.wAt c).sbgNoise)) .invalidAspxConfig
      let a' ← s.qDiv p
      require (a' == a) .invalidAspxConfig
      pure (some p)
    else raise .invalidAspxConfig

/-- The dequantized envelopes without balance coding (46_aspx_synthesis.md R351). -/
def dequantPlain (a e n : Int) : Real32 × Real32 :=
  (R32.mul Tables.envScale (R32.pow2 (R32.div (R32.ofInt e) (R32.ofInt a))),
   R32.pow2 (R32.ofInt (noiseOfs - n)))

/-- The dequantized envelopes of a balance-coded pair (46_aspx_synthesis.md R352): `sgn` is +1 for the level channel
and −1 for the balance channel, `e0 n0` the level channel's values, `e1 n1` the balance channel's. -/
def dequantBalance (sgn a e0 e1 n0 n1 : Int) : Real32 × Real32 :=
  let one := R32.ofInt 1
  (R32.div
     (R32.mul Tables.envScale (R32.pow2 (R32.add (R32.div (R32.ofInt e0) (R32.ofInt a)) one)))
     (R32.add one (R32.pow2 (R32.div (R32.ofInt (sgn * (12 * a - e1))) (R32.ofInt a)))),
   R32.div (R32.pow2 (R32.ofInt (noiseOfs - n0 + 1)))
     (R32.add one (R32.pow2 (R32.ofInt (sgn * (12 - n1))))))

/-- Dequant(c, Pair, l, i, q, j, a) (46_aspx_synthesis.md R350 to R352). The lower slot of a pair is the level channel. -/
def dequantEnv (s : State) (c : Fin 8) (pair : Option (Fin 8)) (a : Int) (l i q j : Nat) : Except Stop (Real32 × Real32) :=
  let env (d : Fin 8) : Except Stop Int := Tab.get (s.chanAt d).qscf (maxSbg * l + i)
  let noise (d : Fin 8) : Except Stop Int := Tab.get (s.chanAt d).qnoise (maxNoiseSbg * q + j)
  match pair with
  | none => do
    let e ← env c
    let n ← noise c
    pure (dequantPlain a e n)
  | some p => do
    let lvl := if c < p then c else p
    let bal := if c < p then p else c
    let e0 ← env lvl
    let e1 ← env bal
    let n0 ← noise lvl
    let n1 ← noise bal
    pure (dequantBalance (if c < p then 1 else -1) a e0 e1 n0 n1)

/-! ### ASPXGAIN: sinusoids, energies, gains -/

/-- F[c].toneAt of PlaceTones(c) (46_aspx_synthesis.md R353). -/
def placeTones (s : State) (c : Fin 8) : Except Stop (Vector Bool 64) := do
  let hi := (s.wAt c).sbgHi
  let flags := (List.range (groups hi)).map (fun i => s.simWord c (Sim.axSineFlag i))
  require (flags.all isFlag) .invalidAspxConfig
  pure (Vector.ofFn (fun m =>
    (indexed 0 flags).any (fun e => e.2 == 1 && m.val == (entry hi e.1 + entry hi (e.1 + 1)) / 2)))

/-- A sinusoid lies in group i of table T (46_aspx_synthesis.md R353). -/
def sineInGroup (tones : Vector Bool 64) (t : List Nat) (i : Nat) : Bool :=
  (List.finRange 64).any (fun m => tones.get m && decide (entry t i ≤ m.val) && decide (m.val < entry t (i + 1)))

/-- EnergyEstimate(c, l, m) (46_aspx_synthesis.md R354). Words that the host changed can make the run of timeslots empty,
and then its sum is 0 (70_reset_and_hazards.md R432 (b)); a run that begins before timeslot 0 or ends after 32 reads what
has no value (log 11). -/
def energyEstimate (s : State) (c : Fin 8) (l m : Nat) : Except Stop Real32 := do
  let t0 := s.tenv c l
  let t1 := s.tenv c (l + 1)
  require (decide (t1 ≤ t0) || decide (0 ≤ t0) && decide (t1 ≤ maxTs)) .illegalCommand
  let terms ← mapE (fun ts => do
    let y ← Tab.get (s.chanAt c).qhigh (hiIndex ts m)
    pure (Cx.norm2 y)) (List.range' t0.toNat (t1 - t0).toNat)
  pure (R32.div (R32.sum terms) (R32.ofInt (t1 - t0)))

/-- What ASPXGAIN holds of one subband of one envelope before limiting (46_aspx_synthesis.md R350). -/
structure Band where
  m : Nat
  eo : Real32
  qo : Real32
  ec : Real32
  tone : Bool
  sig : Bool
deriving DecidableEq, Repr

/-- QM (46_aspx_synthesis.md R355). -/
def Band.qm (x : Band) : Real32 :=
  R32.sqrt (R32.div (R32.mul x.eo x.qo) (R32.add (R32.ofInt 1) x.qo))

/-- SM (46_aspx_synthesis.md R355). -/
def Band.sm (x : Band) : Real32 :=
  if x.tone then R32.sqrt (R32.div x.eo (R32.add (R32.ofInt 1) x.qo)) else 0

/-- G (46_aspx_synthesis.md R355). -/
def Band.gain (x : Band) : Real32 :=
  let one := R32.ofInt 1
  if x.sig then
    R32.sqrt (R32.mul (R32.div x.eo (R32.add one x.ec)) (R32.div x.qo (R32.add one x.qo)))
  else R32.sqrt (R32.div x.eo (R32.mul (R32.add one x.ec) (R32.add one x.qo)))

/-- sO of a limiter group (46_aspx_synthesis.md R356). -/
def targetEnergy (g : List Band) : Real32 := R32.sum (g.map (·.eo))

/-- Gmax of a limiter group (46_aspx_synthesis.md R356); the ratio is 1 where the estimated energy is 0. -/
def maxGain (g : List Band) : Real32 :=
  let sC := R32.sum (g.map (·.ec))
  let ratio := if R32.eq sC 0 then R32.ofInt 1 else R32.div (targetEnergy g) sC
  R32.min (R32.mul Tables.limGain (R32.sqrt ratio)) Tables.gainCap

/-- (Glim, Qlim) of a subband under Gmax (46_aspx_synthesis.md R356). -/
def limited (gmax : Real32) (x : Band) : Real32 × Real32 :=
  if R32.lt gmax x.gain then (gmax, R32.mul x.qm (R32.div gmax x.gain)) else (x.gain, x.qm)

/-- The energy of a subband after limiting (46_aspx_synthesis.md R357). -/
def limitedEnergy (gmax : Real32) (x : Band) : Real32 :=
  let e := limited gmax x
  R32.add (R32.add (R32.mul x.ec (R32.mul e.1 e.1)) (R32.mul x.sm x.sm))
    (if R32.eq x.sm 0 then R32.mul e.2 e.2 else 0)

/-- The boost factor of a limiter group (46_aspx_synthesis.md R357); 1, before its cap, where the denominator is 0. -/
def boost (g : List Band) : Real32 :=
  let den := R32.sum (g.map (limitedEnergy (maxGain g)))
  let gb := if R32.eq den 0 then R32.ofInt 1 else R32.sqrt (R32.div (targetEnergy g) den)
  R32.min gb Tables.boostMax

/-- The final levels (gainS, lvlN, lvlT) of a subband (46_aspx_synthesis.md R358). -/
def finalLevels (x : Band) (glim qlim gb : Real32) : Real32 × Real32 × Real32 :=
  (R32.mul glim gb, if x.tone then 0 else R32.mul qlim gb, R32.mul x.sm gb)

end Sys2Proof.Machine

/-- The limited gain, the limited noise level and the boost factor (`kind` 0, 1, 2) of subband `m` in envelope `l` of
slot `c`, where no limiter group contains `m` (46_aspx_synthesis.md R356 to R358 state none): a function of the slot's
records W[c] and F[c] and of the envelope's subbands, so that a rerun on equal inputs gives equal levels
(60_exceptions.md R393). Log 9, safe. -/
opaque Sys2Proof.Config.anyLevel (x : Sys2Proof.Machine.ChannelState) (f : Sys2Proof.Machine.ChanFrame)
  (bands : List Sys2Proof.Machine.Band) (c : Fin 8) (l m kind : Nat) : Sys2Proof.Real32

namespace Sys2Proof.Machine

open Sys2Proof Config

/-- A free level of subband m in envelope l of slot c (log 9). -/
def State.freeLevel (s : State) (c : Fin 8) (l : Nat) (bands : List Band) (m kind : Nat) : Real32 :=
  anyLevel (s.wAt c) (s.chanAt c) bands c l m kind

/-- The final levels of every subband of one envelope. A subband in no limiter group has a limited gain, a limited
noise level and a boost factor the rules do not state: free values (log 9). -/
def envelopeLevels (s : State) (c : Fin 8) (l : Nat) (lim : List Nat) (bands : List Band) :
    List (Nat × Real32 × Real32 × Real32) :=
  bands.map (fun x =>
    match grp? lim x.m with
    | some u =>
      let g := bands.filter (fun y => decide (entry lim u ≤ y.m) && decide (y.m < entry lim (u + 1)))
      let e := limited (maxGain g) x
      (x.m, finalLevels x e.1 e.2 (boost g))
    | none =>
      let free := s.freeLevel c l bands x.m
      (x.m, finalLevels x (free 0) (free 1) (free 2)))

/-- q(l): the noise envelope that holds envelope l (45_aspx_tables.md R321). Where words that the host changed make
several hold it, the first: DESIGN CHOICE (log 11). -/
def State.noiseEnvOf (s : State) (c : Fin 8) (l : Nat) : Option Nat :=
  (List.range (min (s.simWord c Sim.axNumNoise).toNat (simStride - Sim.axTnoise 1))).find?
    (fun q => decide (s.tnoise c q ≤ s.tenv c l) && decide (s.tenv c l < s.tnoise c (q + 1)))

/-- The resolution r_l as ASPXGAIN reads it; IllegalCommand for a word that is no flag: DESIGN CHOICE (log 11). -/
def State.resolution (s : State) (c : Fin 8) (l : Nat) : Except Stop Bool :=
  let v := s.freqRes c l
  if v = 0 then .ok false else if v = 1 then .ok true else raise .illegalCommand

/-- The record of subband m in envelope l (46_aspx_synthesis.md R350). -/
def bandOfEnv (s : State) (c : Fin 8) (pair : Option (Fin 8)) (a : Int) (tones : Vector Bool 64) (l m : Nat) :
    Except Stop Band := do
  let x := s.wAt c
  let r ← s.resolution c l
  let t := x.sigTable r
  let i ← valueOf (grp? t m)
  let j ← valueOf (grp? x.sbgNoise m)
  let q ← valueOf (s.noiseEnvOf c l)
  let e ← dequantEnv s c pair a l i q j
  let ec ← energyEstimate s c l m
  pure ⟨m, e.1, e.2, ec, atD tones m false, sineInGroup tones t i⟩

/-- The levels of envelope l (46_aspx_synthesis.md R350). An envelope past the fifth has no level to write, so its
levels would be lost; it is met only if a subband's values fail to exist first. -/
def gainEnvelope (s : State) (c : Fin 8) (pair : Option (Fin 8)) (a : Int) (tones : Vector Bool 64) (l : Nat) :
    Except Stop (List (Nat × Real32 × Real32 × Real32)) := do
  let x := s.wAt c
  let bands ← mapE (bandOfEnv s c pair a tones l) (List.range' x.sbx (x.sbTop - x.sbx))
  pure (envelopeLevels s c l x.sbgLim bands)

/-- The entries of one level array: envelope l's values at 64 l + m. -/
def levelEntries (f : Real32 × Real32 × Real32 → Real32) : Nat → List (List (Nat × Real32 × Real32 × Real32)) →
    List (Nat × Real32)
  | _, [] => []
  | l, e :: rest => e.map (fun v => (64 * l + v.1, f v.2)) ++ levelEntries f (l + 1) rest

/-- The pseudocode of ASPXGAIN c (46_aspx_synthesis.md R350). The grid words are read anew (70_reset_and_hazards.md
R432); an envelope count above 5 meets an envelope that holds no value at the sixth. -/
def aspxgainBody (c : Fin 8) (s : State) : Except Stop State := do
  s.requireOpen
  require (s.done c .axhf && !s.done c .axgain) .illegalCommand
  let a ← s.qDiv c
  let pair ← balanceSetup s c a
  let tones ← placeTones s c
  let nEnv := min (s.simWord c Sim.axNumEnv).toNat 6
  let levels ← mapE (gainEnvelope s c pair a tones) (List.range nEnv)
  let f := s.chanAt c
  let f := { f with
    toneAt := some tones
    gainS := Tab.put f.gainS (levelEntries (·.1) 0 levels)
    lvlN := Tab.put f.lvlN (levelEntries (·.2.1) 0 levels)
    lvlT := Tab.put f.lvlT (levelEntries (·.2.2) 0 levels) }
  pure ((s.setChan c f).markDone c .axgain)

/-- ASPXGAIN c (46_aspx_synthesis.md R350). -/
def execAspxgain (c : BitVec 4) (s : State) : Host.Outcome State Fault Refusal :=
  s.command [c] (aspxgainBody (slotOf c))

/-! ### ASPXASM -/

/-- The envelope that holds timeslot ts (46_aspx_synthesis.md R365). Where words that the host changed make several
hold it, the first: DESIGN CHOICE (log 11). -/
def State.envelopeAt (s : State) (c : Fin 8) (ts : Nat) : Option Nat :=
  (List.range (min (s.simWord c Sim.axNumEnv).toNat (simStride - Sim.axTenv 1))).find?
    (fun l => decide (s.tenv c l ≤ (ts : Int)) && decide ((ts : Int) < s.tenv c (l + 1)))

/-- The counters of W[c] after one timeslot: both advance in [sbx, sbTop) (46_aspx_synthesis.md R365). -/
def advanceCounters (x : ChannelState) : ChannelState :=
  let inBand (m : Fin 64) : Bool := decide (x.sbx ≤ m.val) && decide (m.val < x.sbTop)
  { x with
    noiseIdx := Vector.ofFn (fun m => if inBand m then x.noiseIdx.get m + 1 else x.noiseIdx.get m)
    sineIdx := Vector.ofFn (fun m => if inBand m then x.sineIdx.get m + 1 else x.sineIdx.get m) }

/-- Y of subband m in timeslot ts under envelope l (46_aspx_synthesis.md R365). -/
def assembled (p : Params) (x : ChannelState) (f : ChanFrame) (l ts m : Nat) : Except Stop Cplx := do
  let gain ← Tab.get f.gainS (64 * l + m)
  let noise ← Tab.get f.lvlN (64 * l + m)
  let tone ← Tab.get f.lvlT (64 * l + m)
  let hi ← Tab.get f.qhigh (hiIndex ts m)
  let y := Cx.smul gain hi
  let y := Cx.add y (Cx.smul noise (p.noiseTab.get (atD x.noiseIdx m 0)))
  pure (Cx.add y (Cx.smul tone (Tables.sine (atD x.sineIdx m 0) m)))

/-- One timeslot of ASPXASM on the working record and the grid (46_aspx_synthesis.md R365). -/
def assembleSlot (s : State) (c : Fin 8) (ts : Nat) (x : ChannelState) (qg : Memory Word) :
    Except Stop (ChannelState × Memory Word) := do
  let l ← valueOf (s.envelopeAt c ts)
  let elems ← mapE (fun m => do
    let y ← assembled s.cfg x (s.chanAt c) l ts m
    let z := Cx.add (s.gridAt c.val ts m) y
    pure [(qgIndex c.val ts m, z.re), (qgIndex c.val ts m + 1, z.im)]) (List.range' x.sbx (x.sbTop - x.sbx))
  pure (advanceCounters x, qg.setAll elems.flatten)

/-- The timeslots of ASPXASM, in order. Each adds into its own row, so the grid a slot reads is the command's first
(46_aspx_synthesis.md R365). -/
def assembleSlots (s : State) (c : Fin 8) : List Nat → ChannelState × Memory Word → Except Stop (ChannelState × Memory Word)
  | [], r => .ok r
  | ts :: l, r => do
    let r ← assembleSlot s c ts r.1 r.2
    assembleSlots s c l r

/-- The checks of ASPXASM before its first timeslot, and the timeslots (46_aspx_synthesis.md R365). -/
def State.requireAspxasm (s : State) (c : Fin 8) : Except Stop Nat := do
  s.requireOpen
  require (s.done c .axgain && !s.done c .axasm) .illegalCommand
  valueOf s.frame.numTs

/-- The pseudocode of ASPXASM c (46_aspx_synthesis.md R365). -/
def aspxasmBody (c : Fin 8) (s : State) : Except Stop State := do
  let numTs ← s.requireAspxasm c
  let r ← assembleSlots s c (List.range numTs) (s.wAt c, s.qg)
  pure (({ s with qg := r.2 }.setW c r.1).markDone c .axasm)

/-- ASPXASM c (46_aspx_synthesis.md R365). -/
def execAspxasm (c : BitVec 4) (s : State) : Host.Outcome State Fault Refusal :=
  s.command [c] (aspxasmBody (slotOf c))

end Sys2Proof.Machine
end

