-- ==== Sys2Proof/Machine/BitReader.lean ====
section
/-! DEFINITION. The BitReader: the cursor primitives of 41_bitreader.md R190, R195 to R198 and the commands RDBITS,
RDUNARY, RDVLC, RDESC (R191 to R194). -/

namespace Sys2Proof.Machine

open Sys2Proof Config

/-! ### The bit range -/

/-- Bit `k` of the frame's byte range, MSB first (20_memory.md R101). -/
def State.bitAt (s : State) (k : Nat) : Bool := (s.bsmByte (s.frame.base + k / 8)).getLsbD (7 - k % 8)

/-- A computation that reads bits: from a cursor to a value and a cursor, or a stop. -/
abbrev BitM (α : Type) := StateT Nat (Except Stop) α

/-- A computation that reads no bit. -/
def BitM.lift {α : Type} (r : Except Stop α) : BitM α := fun pos =>
  match r with
  | .ok v => .ok (v, pos)
  | .error e => .error e

/-- `raise E` in a reading computation. -/
def BitM.stop {α : Type} (e : FatalError) : BitM α := fun _ => raise e

/-- GetBit() (41_bitreader.md R190). -/
def getBit (s : State) : BitM Bool := fun pos =>
  if pos < s.bitlen.toNat then .ok (s.bitAt pos, pos + 1) else raise .truncated

/-- The loop of ReadBits: `n` more bits behind the value `v`. -/
def readBitsFrom (s : State) : Nat → Nat → BitM Nat
  | 0, v => pure v
  | n + 1, v => do
    let b ← getBit s
    readBitsFrom s n (2 * v + b.toNat)

/-- ReadBits(n) (41_bitreader.md R195): the check of the whole field comes before any bit. -/
def readBits (s : State) (n : Nat) : BitM Nat := fun pos =>
  if pos + n ≤ s.bitlen.toNat then readBitsFrom s n 0 pos else raise .truncated

/-- The loop of ReadUnary: at most `left` more bits, `count` counted. -/
def readUnaryFrom (s : State) (stop : Bool) : Nat → Nat → BitM Nat
  | 0, count => pure count
  | left + 1, count => do
    let b ← getBit s
    if b = stop then pure count else readUnaryFrom s stop left (count + 1)

/-- ReadUnary(stop, maxLen) (41_bitreader.md R196). -/
def readUnary (s : State) (stop : Bool) (maxLen : Nat) : BitM Nat := readUnaryFrom s stop maxLen 0

/-- VLCLookup (00_scope.md R20): the symbol of the codeword (bits, len). -/
def vlcLookup (t : List VlcEntry) (bits len : Nat) : Option Nat :=
  (t.find? (fun e => e.len == len && e.code == bits)).map (·.sym)

/-- (bits, len) is a prefix of the codeword of `e`. -/
def codeExtends (e : VlcEntry) (bits len : Nat) : Bool := decide (len ≤ e.len) && e.code >>> (e.len - len) == bits

/-- A legal table (00_scope.md R20; 41_bitreader.md R193): codewords of at least one bit that fit their length, symbols
below 2^32, and no codeword a prefix of another. -/
def vlcLegal (t : List VlcEntry) : Bool :=
  t.all (fun e => decide (0 < e.len) && decide (e.code < 2 ^ e.len) && decide (e.sym < 2 ^ 32))
    && decide (t.Pairwise (fun a b => codeExtends a b.code b.len = false ∧ codeExtends b a.code a.len = false))

/-- The loop of ReadVLC on the table `t`. Every turn reads a bit, so `fuel` above the number of bits left is never
used up. -/
def readVlcFrom (s : State) (t : List VlcEntry) : Nat → Nat → Nat → BitM Nat
  | 0, _, _ => BitM.stop .truncated
  | fuel + 1, bits, len => do
    let b ← getBit s
    match vlcLookup t (2 * bits + b.toNat) (len + 1) with
    | some sym => pure sym
    | none =>
      if t.any (codeExtends · (2 * bits + b.toNat) (len + 1)) then readVlcFrom s t fuel (2 * bits + b.toNat) (len + 1)
      else BitM.stop .malformedCode

/-- The number of turns after which a loop that reads a bit a turn has met the end of the range. -/
def State.bitFuel (s : State) (pos : Nat) : Nat := s.bitlen.toNat - pos + 1

/-- ReadVLC(t) (41_bitreader.md R197). A table that is not legal is refused (U17). -/
def readVlc (s : State) (t : Nat) : BitM Nat := fun pos =>
  match s.cfg.vlcTable t with
  | none => raise .illegalCommand
  | some tab => if vlcLegal tab then readVlcFrom s tab (s.bitFuel pos) 0 0 pos else .error .illegalParameter

/-- The loop of ReadEsc. -/
def readEscFrom (s : State) (base max : Nat) : Nat → Nat → BitM Nat
  | 0, _ => BitM.stop .truncated
  | fuel + 1, value => do
    let chunk ← readBits s base
    if max < value + chunk then BitM.stop .outOfRange
    else
      let more ← readBits s 1
      if more = 0 then pure (value + chunk)
      else if max < (value + chunk) * 2 ^ base + 2 ^ base then BitM.stop .outOfRange
      else readEscFrom s base max fuel ((value + chunk) * 2 ^ base + 2 ^ base)

/-- ReadEsc(base, max) (41_bitreader.md R198). -/
def readEsc (s : State) (base max : Nat) : BitM Nat := fun pos => readEscFrom s base max (s.bitFuel pos) 0 pos

/-- Run a reading computation at BITPOS. -/
def State.reading {α : Type} (s : State) (m : BitM α) : Except Stop (α × Nat) := m s.bitpos.toNat

/-- RESULT <- v, BITPOS <- pos. -/
def State.setRead (s : State) (v pos : Nat) : State :=
  { s with result := BitVec.ofNat 32 v, bitpos := BitVec.ofNat 32 pos }

/-- A BitReader command: `require F.open`, an operand check, then RESULT <- what the primitive reads. -/
def readCommand (operandOk : Bool) (m : State → BitM Nat) (s : State) : Except Stop State := do
  s.requireOpen
  require operandOk .illegalCommand
  let r ← s.reading (m s)
  pure (s.setRead r.1 r.2)

/-! ### The commands -/

/-- RDBITS n (41_bitreader.md R191). -/
def execRdbits (nbits : BitVec 6) (s : State) : Host.Outcome State Fault Refusal :=
  s.command [] (readCommand (decide (nbits.toNat ≤ 32)) (fun s => readBits s nbits.toNat))

/-- RDUNARY stop, maxLen (41_bitreader.md R192). -/
def execRdunary (stop : Bool) (maxLen : BitVec 16) (s : State) : Host.Outcome State Fault Refusal :=
  s.command [] (readCommand true (fun s => readUnary s stop maxLen.toNat))

/-- RDVLC t (41_bitreader.md R193). -/
def execRdvlc (table : BitVec 8) (s : State) : Host.Outcome State Fault Refusal :=
  s.command [] (readCommand true (fun s => readVlc s table.toNat))

/-- RDESC base (41_bitreader.md R194); the maximum is ARG0. -/
def execRdesc (base : BitVec 5) (s : State) : Host.Outcome State Fault Refusal :=
  s.command [] (readCommand (decide (1 ≤ base.toNat) && decide (base.toNat ≤ 16))
    (fun s => readEsc s base.toNat s.arg0.toNat))

/-! ### The range decoder's renormalization -/

/-- `while range <= 2^28: range <- range << 1 ; offset <- (offset << 1) | GetBit()` (42_spectral.md R223). No command
runs it. A positive range needs at most 29 turns; `fuel` counts them. -/
def rangeRenorm (s : State) : Nat → Nat → Nat → BitM (Nat × Nat)
  | 0, range, offset => pure (range, offset)
  | fuel + 1, range, offset =>
    if range ≤ 2 ^ 28 then do
      let b ← getBit s
      rangeRenorm s fuel (2 * range) (2 * offset + b.toNat)
    else pure (range, offset)

end Sys2Proof.Machine
end

