-- ==== Sys2Proof/Machine/Control.lean ====
section
/-! DEFINITION. The control commands NOP, CHRESET, FBEGIN, FCOMMIT, FABORT, SETLAYOUT (40_control.md R160 to R167). -/

namespace Sys2Proof.Machine

open Sys2Proof Config

/-- NOP (40_control.md R160): no effect but DONE, in a failed frame too. -/
def execNop (s : State) : Host.Outcome State Fault Refusal := s.finish (.ok s)

/-! ### CHRESET -/

/-- The pseudocode of CHRESET c (40_control.md R161). -/
def chresetBody (c : Fin 8) (s : State) : Except Stop State :=
  let z := ChannelState.reset s.cfg
  if s.status.fopen then .ok (s.setW c z) else .ok ((s.setK c z).setW c z)

/-- CHRESET c (40_control.md R161): legal with no frame open. -/
def execChreset (c : BitVec 4) (s : State) : Host.Outcome State Fault Refusal :=
  s.command [c] (chresetBody (slotOf c))

/-! ### FBEGIN -/

/-- SEQ.SEQV (10_state.md R50). -/
def State.seqValid (s : State) : Bool := s.seq.getLsbD 31
/-- SEQ[SEQ_BITS−1:0] (10_state.md R50). -/
def State.seqPrev (s : State) : Nat := (s.seq.extractLsb' 0 seqBits).toNat
/-- SEQ with SEQV = 1 and the counter `n`. -/
def seqWord (n : Nat) : Word := 1#1 ++ 0#21 ++ BitVec.ofNat seqBits n

/-- SeqCheck(n) (40_control.md R163). -/
def State.seqCheck (s : State) (n : Nat) : State :=
  let t := if s.seqValid && n != (s.seqPrev + 1) % seqMod then s.takeWarning .sequenceDiscontinuity else s
  { t with seq := seqWord n }

/-- F.numTs (10_state.md R80). -/
def slotsOf (flb : Nat) : Option Nat := if flb % 64 = 0 then some (flb / 64) else none

/-- The effects of an FBEGIN that passed its checks, less SeqCheck (40_control.md R162). TD has no value until IMDCT
writes it. -/
def State.openFrame (s : State) (flb : Nat) (fcfg : Word) (indep : Bool) : State :=
  { s with
    status := { s.status with fopen := true, ffail := false, pcmv := false }
    frame := ⟨flb, slotsOf flb, indep, s.argBase⟩
    bitpos := 0
    bitlen := BitVec.ofNat 32 (8 * s.argLen)
    fcfg := fcfg
    w := s.k
    chan := Vector.replicate 8 ChanFrame.empty
    qg := ⟨.value 0, []⟩
    td := ⟨.free s.draw, []⟩
    draw := s.draw + 1 }

/-- The pseudocode of FBEGIN (40_control.md R162). -/
def fbeginBody (flbIdx chmode : BitVec 4) (codecmode : BitVec 2) (indep seqp : Bool) (s : State) :
    Except Stop State := do
  require (!s.status.fopen) .illegalCommand
  require (decide (flbIdx.toNat ≤ 8)) .illegalCommand
  require (decide (s.argBase + s.argLen ≤ bsmBytes)) .illegalCommand
  require (!(seqp && decide (2 ^ seqBits ≤ s.argSeq))) .illegalCommand
  let fcfg : Word := 0#21 ++ BitVec.ofBool indep ++ codecmode ++ chmode ++ flbIdx
  let t := s.openFrame (flbTable.getD flbIdx.toNat 0) fcfg indep
  pure (if seqp then t.seqCheck s.argSeq else t)

/-- FBEGIN (40_control.md R162): never discarded (60_exceptions.md R383). -/
def execFbegin (flbIdx chmode : BitVec 4) (codecmode : BitVec 2) (indep seqp : Bool) (s : State) :
    Host.Outcome State Fault Refusal :=
  s.finish (fbeginBody flbIdx chmode codecmode indep seqp s)

/-! ### FCOMMIT and FABORT -/

/-- No channel has started and not finished its pipeline: done = {} or QMFS in it (40_control.md R164). -/
def State.pipelinesComplete (s : State) : Bool :=
  (List.finRange 8).all (fun c => decide ((s.chanAt c).done = Done.empty) || s.done c .qmfs)

/-- The commit of a frame that did not fail: K <- W for every slot, PCMV <- 1 (40_control.md R164). -/
def State.commit (s : State) : State := { s with k := s.w, status := { s.status with pcmv := true } }

/-- The pseudocode of FCOMMIT (40_control.md R164). -/
def fcommitBody (s : State) : Except Stop State := do
  s.requireOpen
  if s.status.ffail then pure s.endFrame
  else
    require s.pipelinesComplete .illegalCommand
    pure s.commit.endFrame

/-- FCOMMIT (40_control.md R164): never discarded. -/
def execFcommit (s : State) : Host.Outcome State Fault Refusal := s.finish (fcommitBody s)

/-- The pseudocode of FABORT (40_control.md R165). -/
def fabortBody (s : State) : Except Stop State := do
  s.requireOpen
  pure s.endFrame

/-- FABORT (40_control.md R165): never discarded. -/
def execFabort (s : State) : Host.Outcome State Fault Refusal := s.finish (fabortBody s)

/-! ### SETLAYOUT -/

/-- A legal SFB_OFFSETS(flb, N): strictly increasing from 0 to at most N (40_control.md R167; U17). -/
def sfbLegal (offs : List Nat) (n : Nat) : Bool :=
  offs.head? == some 0 && decide (offs.Pairwise (· < ·)) && offs.all (fun o => decide (o ≤ n))

/-- One group of a layout: its number, its first sample, nwin, tlen, maxSfb. -/
structure LayoutGroup where
  grp : Nat
  off : Nat
  nwin : Nat
  tlen : Nat
  maxSfb : Nat
deriving DecidableEq, Repr

/-- The windows of a group (40_control.md R166). -/
def LayoutGroup.windows (x : LayoutGroup) : List Window :=
  (List.range x.nwin).map (fun w => ⟨x.off + w * x.tlen, x.tlen, x.grp⟩)

/-- The loop of SETLAYOUT over `n` groups from `g` on, `off` samples laid out so far (40_control.md R166). -/
def layoutGroups (s : State) (c : Fin 8) : Nat → Nat → Nat → Except Stop (List LayoutGroup)
  | 0, _, off => do
    require (decide (off = s.frame.flb)) .invalidBlockConfig
    pure []
  | n + 1, g, off => do
    let nw := s.simWord c (Sim.wlNwin g)
    let len := s.simWord c (Sim.wlTlen g)
    let ms := s.simWord c (Sim.wlMaxsfb g)
    require (decide (1 ≤ nw)) .invalidBlockConfig
    require (decide (0 ≤ len) && (tlenTable s.frame.flb).contains len.toNat) .invalidBlockConfig
    let offs := s.cfg.sfb s.frame.flb len.toNat
    if sfbLegal offs len.toNat then
      require (decide (0 ≤ ms) && decide (ms.toNat ≤ offs.length - 1) && decide (ms.toNat ≤ maxSfb)) .invalidBlockConfig
      let off' := off + nw.toNat * len.toNat
      require (decide (off' ≤ s.frame.flb)) .invalidBlockConfig
      let rest ← layoutGroups s c n (g + 1) off'
      pure (⟨g, off, nw.toNat, len.toNat, ms.toNat⟩ :: rest)
    else .error .illegalParameter

/-- The band of sample `k` of a window (40_control.md R167). -/
def bandOf (offs : List Nat) (maxSfb k : Nat) : Option Nat :=
  (List.range maxSfb).find? (fun b => decide (offs.getD b 0 ≤ k) && decide (k < offs.getD (b + 1) 0))

/-- SampleMap at sample `t` (40_control.md R167): windows do not overlap, so one of them holds the sample. -/
def sampleMapAt (p : Params) (flb : Nat) (gs : List LayoutGroup) (t : Nat) : Option (Nat × Nat) :=
  match gs.find? (fun x => decide (x.off ≤ t) && decide (t < x.off + x.nwin * x.tlen)) with
  | none => none
  | some x => (bandOf (p.sfb flb x.tlen) x.maxSfb ((t - x.off) % x.tlen)).map (fun b => (x.grp, b))

/-- The window-layout fields of W[c] as SETLAYOUT writes them (40_control.md R166). -/
def ChannelState.withLayout (x : ChannelState) (p : Params) (flb : Nat) (gs : List LayoutGroup) : ChannelState :=
  { x with
    ngroups := gs.length
    nwin := Vector.ofFn (fun g => ((gs[g.val]?).map (·.nwin)).getD 0)
    tlen := Vector.ofFn (fun g => ((gs[g.val]?).map (·.tlen)).getD 0)
    maxSfb := Vector.ofFn (fun g => ((gs[g.val]?).map (·.maxSfb)).getD 0)
    wins := gs.flatMap LayoutGroup.windows
    smap := Vector.ofFn (fun t => sampleMapAt p flb gs t.val) }

/-- The pseudocode of SETLAYOUT c (40_control.md R166). -/
def setlayoutBody (c : Fin 8) (s : State) : Except Stop State := do
  s.requireOpen
  let n := s.simWord c Sim.wlNgroups
  require (decide (1 ≤ n) && decide (n ≤ 16)) .invalidBlockConfig
  let gs ← layoutGroups s c n.toNat 0 0
  pure ((s.setW c ((s.wAt c).withLayout s.cfg s.frame.flb gs)).markDone c .layout)

/-- SETLAYOUT c (40_control.md R166). -/
def execSetlayout (c : BitVec 4) (s : State) : Host.Outcome State Fault Refusal :=
  s.command [c] (setlayoutBody (slotOf c))

end Sys2Proof.Machine
end

