-- ==== Sys2Proof/Machine/Spectral.lean ====
section
/-! DEFINITION. The spectral front end: SECT, SPEC, SF, ARITH, DEQ (42_spectral.md R210 to R227). -/

namespace Sys2Proof.Machine

open Sys2Proof Config

/-- The opening checks of every command of 42_spectral.md: an open frame, g < W[c].ngroups, and the stages the rule
requires. -/
def State.requireGroup (s : State) (c : Fin 8) (g : Nat) (stages : List Stage) : Except Stop Unit := do
  s.requireOpen
  require (decide (g < (s.wAt c).ngroups)) .illegalCommand
  require (stages.all (s.done c)) .illegalCommand

/-! ### SECT -/

/-- The run length of a section: LENBITS-bit chunks, continued while a chunk is all ones (42_spectral.md R210, R211).
Every turn reads a bit at least. -/
def readRun (s : State) (lenBits : Nat) : Nat → Nat → BitM Nat
  | 0, _ => BitM.stop .truncated
  | fuel + 1, len => do
    let inc ← readBits s lenBits
    if inc = 2 ^ lenBits - 1 then readRun s lenBits fuel (len + inc) else pure (len + inc)

/-- The sections of a group of `ms` bands from band `b` on, as the codebook of each band (42_spectral.md R210). -/
def readSections (s : State) (lenBits ms : Nat) : Nat → Nat → BitM (List Nat)
  | 0, _ => BitM.stop .truncated
  | fuel + 1, b =>
    if b < ms then do
      let cb ← readBits s cbBits
      if cb ≠ 0 ∧ (cbDesc cb).isNone then BitM.stop .invalidBlockConfig
      else
        let len ← fun pos => readRun s lenBits (s.bitFuel pos) 0 pos
        if ms < b + len then BitM.stop .invalidBlockConfig
        else
          let rest ← readSections s lenBits ms fuel (b + len)
          pure (List.replicate len cb ++ rest)
    else pure []

/-- The pseudocode of SECT c, g, lenBits (42_spectral.md R210). -/
def sectBody (c : Fin 8) (g : Fin 16) (lenBits : Nat) (s : State) : Except Stop State := do
  s.requireGroup c g [.layout]
  require (lenBits != 0) .illegalCommand
  let r ← s.reading (fun pos => readSections s lenBits ((s.wAt c).bands g) (s.bitFuel pos) 0 pos)
  let f := s.chanAt c
  let f := { f with cb := Tab.put f.cb (indexed (band g 0) r.1) }
  pure (({ s with bitpos := BitVec.ofNat 32 r.2 }.setChan c f).markDone c (.sect g))

/-- SECT c, g, lenBits (42_spectral.md R210). -/
def execSect (c g lenBits : BitVec 4) (s : State) : Host.Outcome State Fault Refusal :=
  s.command [c] (sectBody (slotOf c) (groupOf g) lenBits.toNat)

/-! ### SPEC -/

/-- The digits of `v` in base `m`, `d` of them, the most significant first (42_spectral.md R216). -/
def digits (v m : Nat) : Nat → List Nat
  | 0 => []
  | d + 1 => (v / m ^ d) % m :: digits v m d

/-- The explicit sign bit of a nonzero value, 1 = negative (42_spectral.md R216). -/
def readSign (s : State) (v : Int) : BitM Int :=
  if v = 0 then pure v
  else do
    let b ← readBits s 1
    pure (if b = 1 then -v else v)

/-- The explicit signs of a tuple, in order (42_spectral.md R216). -/
def readSigns (s : State) : List Int → BitM (List Int)
  | [] => pure []
  | v :: l => do
    let v' ← readSign s v
    let l' ← readSigns s l
    pure (v' :: l')

/-- The escape of a value of magnitude 16 (42_spectral.md R216). -/
def readEscape (s : State) (v : Int) : BitM Int :=
  if v.natAbs = 16 then do
    let n ← readUnary s false 9
    if n = 9 then BitM.stop .outOfRange
    else
      let w ← readBits s (n + 4)
      let mag : Int := (2 ^ (n + 4) + w : Nat)
      pure (if v < 0 then -mag else mag)
  else pure v

/-- The escapes of a tuple, in order (42_spectral.md R216). -/
def readEscapes (s : State) : List Int → BitM (List Int)
  | [] => pure []
  | v :: l => do
    let v' ← readEscape s v
    let l' ← readEscapes s l
    pure (v' :: l')

/-- `mod` of a codebook (42_spectral.md R216). -/
def CbDesc.base (d : CbDesc) : Nat := if d.signed then 2 * d.lav + 1 else d.lav + 1

/-- The values the digits of a symbol stand for, before signs and escapes (42_spectral.md R216). -/
def CbDesc.values (d : CbDesc) (sym : Nat) : List Int :=
  (digits sym (CbDesc.base d) d.dim).map (fun (u : Nat) => (u : Int) - (if d.signed then (d.lav : Int) else 0))

/-- The explicit signs of a tuple, if the codebook has them. -/
def tupleSigns (s : State) (d : CbDesc) (v : List Int) : BitM (List Int) :=
  if d.signed then pure v else readSigns s v

/-- The escapes of a tuple, if the codebook has them. -/
def tupleEscapes (s : State) (d : CbDesc) (v : List Int) : BitM (List Int) :=
  if d.esc then readEscapes s v else pure v

/-- DecodeTuple(cb) (42_spectral.md R216), `d` the descriptor of cb and `table` its VLC table. -/
def decodeTuple (s : State) (d : CbDesc) (table : Nat) : BitM (List Int) := do
  let sym ← readVlc s table
  if CbDesc.base d ^ d.dim ≤ sym then BitM.stop .malformedCode
  else
    let v ← tupleSigns s d (CbDesc.values d sym)
    tupleEscapes s d v

/-- `n` tuples, one after another. -/
def readTuples (s : State) (d : CbDesc) (table : Nat) : Nat → BitM (List Int)
  | 0 => pure []
  | n + 1 => do
    let v ← decodeTuple s d table
    let rest ← readTuples s d table n
    pure (v ++ rest)

/-- The quantized values of a section's samples (42_spectral.md R214). -/
def readSection (s : State) (cb : Nat) (samples : List Nat) : BitM (List (Nat × Int)) :=
  if cb = 0 then pure (samples.map (fun t => (t, 0)))
  else
    match cbDesc cb with
    | none => BitM.stop .invalidBlockConfig
    | some d =>
      if samples.length % d.dim ≠ 0 then BitM.stop .invalidBlockConfig
      else do
        let v ← readTuples s d (atD s.cfg.cbTable cb 0) (samples.length / d.dim)
        pure (samples.zip v)

/-- Maximal runs of bands with equal codebooks: each with its codebook and its bands (42_spectral.md R214). Bands
without a codebook make a run of their own: DEDUCED (log 21). -/
def sectionsOf : List (Nat × Option Nat) → List (Option Nat × List Nat)
  | [] => []
  | (b, cb) :: l =>
    match sectionsOf l with
    | (cb', bs) :: rest => if cb = cb' then (cb, b :: bs) :: rest else (cb, [b]) :: (cb', bs) :: rest
    | [] => [(cb, [b])]

/-- The values of all sections, in order. The codebook of a section is read when the section begins, so a band without
one raises IllegalCommand after the sections before it have read their bits: DEDUCED (log 21). -/
def readAllSections (s : State) (x : ChannelState) (g : Nat) : List (Option Nat × List Nat) → BitM (List (Nat × Int))
  | [] => pure []
  | (o, bs) :: l => do
    let cb ← BitM.lift (valueOf o)
    let v ← readSection s cb (bs.flatMap (x.samples g))
    let rest ← readAllSections s x g l
    pure (v ++ rest)

/-- The greatest magnitude of a band (42_spectral.md R214, R217); 0 if it has no sample. -/
def maxMagOf (q : Tab Int 2048) (samples : List Nat) : Except Stop Nat := do
  let v ← mapE (Tab.get q) samples
  pure (v.foldl (fun m x => max m x.natAbs) 0)

/-- The pseudocode of SPEC c, g (42_spectral.md R214). -/
def specBody (c : Fin 8) (g : Fin 16) (s : State) : Except Stop State := do
  s.requireGroup c g [.sect g]
  let x := s.wAt c
  let f := s.chanAt c
  let bands := List.range (x.bands g)
  let r ← s.reading (readAllSections s x g (sectionsOf (bands.map (fun b => (b, f.cb.at? (band g b))))))
  let q := Tab.put f.q r.1
  let mags ← mapE (fun b => maxMagOf q (x.samples g b)) bands
  let gaps := (x.groupSamples g).filter (fun t => (x.mapAt t).isNone)
  let f := { f with
    q := Tab.put q (gaps.map (fun t => (t, 0)))
    maxMag := Tab.put f.maxMag (indexed (band g 0) mags) }
  pure (({ s with bitpos := BitVec.ofNat 32 r.2 }.setChan c f).markDone c (.spec g))

/-- SPEC c, g (42_spectral.md R214). -/
def execSpec (c g : BitVec 4) (s : State) : Host.Outcome State Fault Refusal :=
  s.command [c] (specBody (slotOf c) (groupOf g))

/-! ### SF -/

/-- The accumulators of SF (42_spectral.md R218). -/
structure SfAcc where
  first : Bool
  acc : Int
  snf : Int
deriving DecidableEq, Repr

/-- The value of an explicit scale factor before its check: absolute the first time, else a difference
(42_spectral.md R218). -/
def readSfValue (s : State) (a : SfAcc) : BitM Int :=
  if a.first then do
    let n ← readBits s sfRefBits
    pure (n : Int)
  else do
    let n ← readVlc s s.cfg.sfTable
    pure (a.acc + n - sfDeltaOffset)

/-- The scale factor of a band that has one (42_spectral.md R218). -/
def readSf (s : State) (a : SfAcc) : BitM SfAcc := do
  let v ← readSfValue s a
  if v < 0 ∨ sfMax < v then BitM.stop .outOfRange else pure { a with first := false, acc := v }

/-- `F[c].cb[g][b] != 0 and F[c].maxMag[g][b] != 0`: band b has an explicit scale factor (42_spectral.md R217, R218).
`and` does not read its right side where its left side fails, as in R216: DEDUCED (log 21). -/
def explicitSf (f : ChanFrame) (g b : Nat) : Except Stop Bool := do
  let cb ← Tab.get f.cb (band g b)
  if cb = 0 then pure false
  else
    let mag ← Tab.get f.maxMag (band g b)
    pure (mag != 0)

/-- The loop of SF over the bands: sf and snf of each, and the accumulators (42_spectral.md R218). Each band's codebook
and magnitude are read when its turn comes, between the bit reads (60_exceptions.md R385). -/
def readSfs (s : State) (f : ChanFrame) (g : Nat) (snfp : Bool) :
    List Nat → SfAcc → BitM (List (Option Int × Option Int) × SfAcc)
  | [], a => pure ([], a)
  | b :: l, a => do
    let e ← BitM.lift (explicitSf f g b)
    if e then do
      let a ← readSf s a
      let r ← readSfs s f g snfp l a
      pure ((some a.acc, none) :: r.1, r.2)
    else if snfp then do
      let n ← readVlc s s.cfg.snfTable
      let a := { a with snf := a.snf + n - sfDeltaOffset }
      let r ← readSfs s f g snfp l a
      pure ((none, some a.snf) :: r.1, r.2)
    else do
      let r ← readSfs s f g snfp l a
      pure ((none, none) :: r.1, r.2)

/-- The accumulators at the start of SF for group g: fresh for group 0, else as the group before left them. -/
def sfStart (s : State) (f : ChanFrame) (g : Nat) : Except Stop SfAcc :=
  if g = 0 then .ok ⟨true, 0, s.cfg.snfInit⟩
  else do
    let first ← valueOf f.sfFirst
    let acc ← valueOf f.sfAcc
    let snf ← valueOf f.snfAcc
    pure ⟨first, acc, snf⟩

/-- The stages SF of group g requires (42_spectral.md R218). -/
def sfStages (g : Fin 16) : List Stage := if g.val = 0 then [.spec g] else [.spec g, .sf (g - 1)]

/-- The pseudocode of SF c, g, snfp (42_spectral.md R218). -/
def sfBody (c : Fin 8) (g : Fin 16) (snfp : Bool) (s : State) : Except Stop State := do
  s.requireGroup c g (sfStages g)
  let f := s.chanAt c
  let start ← sfStart s f g
  let r ← s.reading (readSfs s f g snfp (List.range ((s.wAt c).bands g)) start)
  let f := { f with
    sf := Tab.put f.sf (indexed (band g 0) (r.1.1.map (·.1)))
    snf := Tab.put f.snf (indexed (band g 0) (r.1.1.map (·.2)))
    sfFirst := some r.1.2.first
    sfAcc := some r.1.2.acc
    snfAcc := some r.1.2.snf }
  pure (({ s with bitpos := BitVec.ofNat 32 r.2 }.setChan c f).markDone c (.sf g))

/-- SF c, g, snfp (42_spectral.md R218). -/
def execSf (c g : BitVec 4) (snfp : Bool) (s : State) : Host.Outcome State Fault Refusal :=
  s.command [c] (sfBody (slotOf c) (groupOf g) snfp)

/-! ### ARITH -/

/-- The pseudocode of ARITH c, g (42_spectral.md R222): the payload of ARG0 bits is skipped, the group is silent, and
the warning comes after all checks. -/
def arithBody (c : Fin 8) (g : Fin 16) (s : State) : Except Stop State := do
  s.requireGroup c g [.layout]
  require (decide (s.bitpos.toNat + s.arg0.toNat ≤ s.bitlen.toNat)) .truncated
  let x := s.wAt c
  let f := s.chanAt c
  let zeros := indexed (band g 0) (List.replicate (x.bands g) 0)
  let f := { f with
    cb := Tab.put f.cb zeros
    maxMag := Tab.put f.maxMag zeros
    q := Tab.put f.q ((x.groupSamples g).map (fun t => (t, 0)))
    done := (f.done.add (.sect g)).add (.spec g) }
  pure (({ s with bitpos := s.bitpos + s.arg0 }.setChan c f).takeWarning .residualCodingUnsupported)

/-- ARITH c, g (42_spectral.md R222). -/
def execArith (c g : BitVec 4) (s : State) : Host.Outcome State Fault Refusal :=
  s.command [c] (arithBody (slotOf c) (groupOf g))

/-! ### DEQ -/

/-- The coefficient of a quantized value under a scale factor (42_spectral.md R226): the sign is applied only to a
negative value. -/
def dequantized (q : Int) (sf : Int) : Real32 :=
  let mag := R32.mul (Tables.dequant q.natAbs) (Tables.sfGain sf)
  if q < 0 then R32.neg mag else mag

/-- coef of one sample (42_spectral.md R226). -/
def coefOf (x : ChannelState) (f : ChanFrame) (t : Nat) : Except Stop (Nat × Real32) :=
  match x.mapAt t with
  | none => .ok (t, 0)
  | some (g, b) => do
    let sf ← Tab.get f.sf (band g b)
    match sf with
    | none => pure (t, 0)
    | some sf => do
      let q ← Tab.get f.q t
      pure (t, dequantized q sf)

/-- The pseudocode of DEQ c, g (42_spectral.md R226). -/
def deqBody (c : Fin 8) (g : Fin 16) (s : State) : Except Stop State := do
  s.requireGroup c g [.sf g]
  let f := s.chanAt c
  let coefs ← mapE (coefOf (s.wAt c) f) ((s.wAt c).groupSamples g)
  pure ((s.setChan c { f with coef := Tab.put f.coef coefs }).markDone c (.deq g))

/-- DEQ c, g (42_spectral.md R226). -/
def execDeq (c g : BitVec 4) (s : State) : Host.Outcome State Fault Refusal :=
  s.command [c] (deqBody (slotOf c) (groupOf g))

end Sys2Proof.Machine
end

