-- ==== Sys2Proof/Machine/Transform.lean ====
section
/-! DEFINITION. The stereo matrix and the adaptive inverse MDCT: STEREO and IMDCT (43_stereo_imdct.md R250 to R260). -/

namespace Sys2Proof.Machine

open Sys2Proof Config

/-- All groups of c are dequantized: a layout is in force and DEQ(g) is done for each of its groups
(43_stereo_imdct.md, its head). -/
def State.allDequantized (s : State) (c : Fin 8) : Bool :=
  decide (1 ≤ (s.wAt c).ngroups)
    && (List.finRange 16).all (fun g => !decide (g.val < (s.wAt c).ngroups) || s.done c (.deq g))

/-! ### STEREO -/

/-- The layouts of a pair are equal (43_stereo_imdct.md R250). -/
def layoutsAgree (x y : ChannelState) : Bool :=
  x.ngroups == y.ngroups && decide (x.wins = y.wins)
    && (List.range x.ngroups).all (fun g => x.bands g == y.bands g)

/-- Mode 2: alpha = 0 where the band's flag is 1, identity where it is 0 (43_stereo_imdct.md R251). -/
def msSelect (v : Int) : Except Stop (Option Real32) :=
  if v = 0 then .ok none else if v = 1 then .ok (some 0) else raise .invalidBlockConfig

/-- Select(mode, g, b): `none` is identity, `some alpha` the matrix (43_stereo_imdct.md R251, R252). `acc` is the running
sum of the alpha symbols, and the first result what it becomes. A symbol of mode 3 is read when its band's turn comes:
DEDUCED (log 21). -/
def stereoSelect (s : State) (c : Fin 8) (mode : Int) (g b : Nat) (acc : Int) : Except Stop (Int × Option Real32) :=
  if mode = 0 then .ok (acc, none)
  else if mode = 1 then .ok (acc, some 0)
  else if mode = 2 then do
    let sel ← msSelect (s.simWord c (Sim.stMsused g b))
    pure (acc, sel)
  else do
    let sym := s.simWord c (Sim.stAlphaSym g b)
    require (decide (0 ≤ sym)) .invalidBlockConfig
    pure (acc + (sym - 60), some (R32.mul (R32.ofInt (acc + (sym - 60))) Tables.tenth))

/-- The matrix with alpha on the column (a, d): both results from the inputs (43_stereo_imdct.md R250, R253). -/
def stereoMatrix (alpha a d : Real32) : Real32 × Real32 :=
  let one := R32.ofInt 1
  (R32.add (R32.mul (R32.add one alpha) a) d, R32.sub (R32.mul (R32.sub one alpha) a) d)

/-- The new coefficients of both channels at the samples of one band (43_stereo_imdct.md R250). -/
def stereoBand (f f2 : ChanFrame) (sel : Option Real32) (samples : List Nat) :
    Except Stop (List (Nat × Real32 × Real32)) :=
  match sel with
  | none => .ok []
  | some alpha =>
    mapE (fun t => do
      let a ← Tab.get f.coef t
      let d ← Tab.get f2.coef t
      pure (t, stereoMatrix alpha a d)) samples

/-- The bands of group g, in order: each is selected and its coefficients are read before the next band
(43_stereo_imdct.md R250; 60_exceptions.md R385). -/
def stereoBands (s : State) (c c2 : Fin 8) (mode : Int) (g : Nat) :
    List Nat → Int → Except Stop (Int × List (Nat × Real32 × Real32))
  | [], acc => .ok (acc, [])
  | b :: l, acc => do
    let sel ← stereoSelect s c mode g b acc
    let new ← stereoBand (s.chanAt c) (s.chanAt c2) sel.2 ((s.wAt c).samples g b)
    let rest ← stereoBands s c c2 mode g l sel.1
    pure (rest.1, new ++ rest.2)

/-- The running sum group g starts from: the last one of the group before it, if that has as many bands, else 0
(43_stereo_imdct.md R252). -/
def alphaStartOf (x : ChannelState) (g : Nat) (acc : Int) : Int :=
  if g ≠ 0 ∧ x.bands g = x.bands (g - 1) then acc else 0

/-- The groups, in order: every new coefficient (43_stereo_imdct.md R250). A sample is in one band, so no coefficient is
read after it is written. -/
def stereoGroups (s : State) (c c2 : Fin 8) (mode : Int) : List Nat → Int → Except Stop (List (Nat × Real32 × Real32))
  | [], _ => .ok []
  | g :: l, acc => do
    let r ← stereoBands s c c2 mode g (List.range ((s.wAt c).bands g)) (alphaStartOf (s.wAt c) g acc)
    let rest ← stereoGroups s c c2 mode l r.1
    pure (r.2 ++ rest)

/-- The stage checks of STEREO on one channel (43_stereo_imdct.md R250). -/
def State.requireStereo (s : State) (c : Fin 8) : Except Stop Unit := do
  require (s.allDequantized c) .illegalCommand
  require (!s.done c .stereo && !s.done c .imdct) .illegalCommand

/-- The pseudocode of STEREO c, c2 (43_stereo_imdct.md R250). -/
def stereoBody (c c2 : Fin 8) (s : State) : Except Stop State := do
  s.requireOpen
  require (decide (c ≠ c2)) .illegalCommand
  s.requireStereo c
  s.requireStereo c2
  require (layoutsAgree (s.wAt c) (s.wAt c2)) .invalidBlockConfig
  let mode := s.simWord c Sim.stMode
  require (decide (0 ≤ mode) && decide (mode ≤ 3)) .invalidBlockConfig
  let f := s.chanAt c
  let f2 := s.chanAt c2
  let new ← stereoGroups s c c2 mode (List.range (s.wAt c).ngroups) 0
  let s := s.setChan c { f with coef := Tab.put f.coef (new.map (fun e => (e.1, e.2.1))) }
  let s := s.setChan c2 { f2 with coef := Tab.put f2.coef (new.map (fun e => (e.1, e.2.2))) }
  pure ((s.markDone c .stereo).markDone c2 .stereo)

/-- STEREO c, c2 (43_stereo_imdct.md R250). -/
def execStereo (c c2 : BitVec 4) (s : State) : Host.Outcome State Fault Refusal :=
  s.command [c, c2] (stereoBody (slotOf c) (slotOf c2))

/-! ### IMDCT -/

/-- InvTransform(N, X) at n (43_stereo_imdct.md R257). -/
def invTransformAt (len : Nat) (x : Array Real32) (n : Nat) : Real32 :=
  R32.mul (Tables.imdctScale len)
    (R32.sum ((List.range len).map (fun k => R32.mul (x.getD k 0) (Tables.cosK len n k))))

/-- InvTransform(N, X): 2N values (43_stereo_imdct.md R257). -/
def invTransform (len : Nat) (x : Array Real32) : Array Real32 :=
  Array.ofFn (n := 2 * len) (fun n => invTransformAt len x n.val)

/-- acc with the tail of length `np` added under its falling window, centred on `d` (43_stereo_imdct.md R256, R258). -/
def addTail (acc : Vector Real32 4096) (tail : Vector Real32 2048) (d np l : Nat) : Vector Real32 4096 :=
  Vector.ofFn (fun i =>
    if d - np / 2 ≤ i.val ∧ i.val < d - np / 2 + np then
      R32.add (acc.get i) (R32.mul (atD tail (i.val - (d - np / 2)) 0) (Tables.fall np l (i.val - (d - np / 2))))
    else acc.get i)

/-- acc with the first half of a block of length `len` added under its rising window, centred on `d`
(43_stereo_imdct.md R256, R258). -/
def addBlock (acc : Vector Real32 4096) (y : Array Real32) (d len l : Nat) : Vector Real32 4096 :=
  Vector.ofFn (fun i =>
    if d - len / 2 ≤ i.val ∧ i.val < d - len / 2 + len then
      R32.add (acc.get i) (R32.mul (y.getD (i.val - (d - len / 2)) 0) (Tables.rise len l (i.val - (d - len / 2))))
    else acc.get i)

/-- One window of IMDCT on the channel's record: the record after it and the N samples it emits
(43_stereo_imdct.md R256). -/
def imdctWindow (flb : Nat) (x : ChannelState) (len : Nat) (coefs : Array Real32) : ChannelState × List Real32 :=
  let np := x.nprev
  let d := flb / 2
  let l := if np = 0 then len else min len np
  let y := invTransform len coefs
  let acc := if np = 0 then x.acc else addTail x.acc x.tail d np l
  let acc := addBlock acc y d len l
  let x := { x with
    acc := Vector.ofFn (fun i => atD acc (i.val + len) 0)
    tail := Vector.ofFn (fun m => if m.val < len then y.getD (len + m.val) 0 else x.tail.get m)
    nprev := len }
  (x, (List.range len).map (fun n => atD acc n 0))

/-- The coefficients of a window (43_stereo_imdct.md R256); IllegalCommand where one is missing (10_state.md R83). -/
def windowCoefs (coef : Tab Real32 2048) (w : Window) : Except Stop (List Real32) :=
  mapE (Tab.get coef) (List.range' w.off w.len)

/-- The windows of IMDCT, in order (43_stereo_imdct.md R256): the record and the TD elements after them. -/
def imdctWindows (flb base : Nat) (coef : Tab Real32 2048) :
    List Window → ChannelState × Memory Word → Except Stop (ChannelState × Memory Word)
  | [], r => .ok r
  | w :: l, r => do
    let coefs ← windowCoefs coef w
    let e := imdctWindow flb r.1 w.len coefs.toArray
    imdctWindows flb base coef l (e.1, r.2.setRun (base + w.off) e.2)

/-- The checks of IMDCT before its first window (43_stereo_imdct.md R256). -/
def State.requireImdct (s : State) (c : Fin 8) : Except Stop Unit := do
  s.requireOpen
  require (s.allDequantized c) .illegalCommand
  require (!s.done c .imdct) .illegalCommand
  let x := s.wAt c
  require (!(x.nprev != 0 && x.flbPrev != s.frame.flb)) .invalidBlockConfig

/-- The pseudocode of IMDCT c (43_stereo_imdct.md R256). -/
def imdctBody (c : Fin 8) (s : State) : Except Stop State := do
  s.requireImdct c
  let x := s.wAt c
  let r ← imdctWindows s.frame.flb (c.val * pcmStride) (s.chanAt c).coef x.wins (x, s.td)
  pure (({ s with td := r.2 }.setW c { r.1 with flbPrev := s.frame.flb }).markDone c .imdct)

/-- IMDCT c (43_stereo_imdct.md R256). -/
def execImdct (c : BitVec 4) (s : State) : Host.Outcome State Fault Refusal :=
  s.command [c] (imdctBody (slotOf c))

end Sys2Proof.Machine
end

