-- ==== Sys2Proof/Machine/Dispatch.lean ====
section
/-! DEFINITION. The meaning of every command, one arm per constructor. -/

namespace Sys2Proof.Machine

open Sys2Proof

def exec (i : Instr) (s : State) : Host.Outcome State Fault Refusal :=
  match i with
  | .nop => Sys2Proof.Machine.execNop s
  | .chreset c => Sys2Proof.Machine.execChreset c s
  | .fbegin flbIdx chmode codecmode indep seqp => Sys2Proof.Machine.execFbegin flbIdx chmode codecmode indep seqp s
  | .fcommit => Sys2Proof.Machine.execFcommit s
  | .fabort => Sys2Proof.Machine.execFabort s
  | .setlayout c => Sys2Proof.Machine.execSetlayout c s
  | .rdbits nbits => Sys2Proof.Machine.execRdbits nbits s
  | .rdunary stop maxLen => Sys2Proof.Machine.execRdunary stop maxLen s
  | .rdvlc table => Sys2Proof.Machine.execRdvlc table s
  | .rdesc base => Sys2Proof.Machine.execRdesc base s
  | .sect c g lenBits => Sys2Proof.Machine.execSect c g lenBits s
  | .spec c g => Sys2Proof.Machine.execSpec c g s
  | .sf c g snfp => Sys2Proof.Machine.execSf c g snfp s
  | .arith c g => Sys2Proof.Machine.execArith c g s
  | .deq c g => Sys2Proof.Machine.execDeq c g s
  | .stereo c c2 => Sys2Proof.Machine.execStereo c c2 s
  | .imdct c => Sys2Proof.Machine.execImdct c s
  | .qmfa c => Sys2Proof.Machine.execQmfa c s
  | .qmfs c => Sys2Proof.Machine.execQmfs c s
  | .aspxcfg c => Sys2Proof.Machine.execAspxcfg c s
  | .aspxenv c => Sys2Proof.Machine.execAspxenv c s
  | .aspxhf c => Sys2Proof.Machine.execAspxhf c s
  | .aspxgain c => Sys2Proof.Machine.execAspxgain c s
  | .aspxasm c => Sys2Proof.Machine.execAspxasm c s

end Sys2Proof.Machine
end

