-- ==== Sys2Proof/Machine/HostPort.lean ====
section
/-! DEFINITION. The host's side of CORE: the register window (10_state.md R41 to R52), the element port HADDR/HDATA
(20_memory.md R100 to R104), the issue of a command (10_state.md R45), and what the host may do while a command
executes (20_memory.md R111; 70_reset_and_hazards.md R421, R431). -/

namespace Sys2Proof.Machine

open Sys2Proof Config

/-! ### HADDR and HDATA -/

/-- HADDR[31:28], the space number (10_state.md R51). -/
def State.hspace (s : State) : Nat := (s.haddr.extractLsb' 28 4).toNat
/-- HADDR[27:0], the element index. -/
def State.hindex (s : State) : Nat := (s.haddr.extractLsb' 0 28).toNat

/-- HADDR after an access: bits 27:0 advance by 1 modulo 2^28, bits 31:28 stay (10_state.md R51). -/
def nextHaddr (a : Word) : Word := a.extractLsb' 28 4 ++ (a.extractLsb' 0 28 + 1)

/-- The number of elements of a space, 0 for a reserved one (10_state.md R60). -/
def spaceSize : Nat → Nat
  | 0 => bsmBytes
  | 1 => numCh * simStride
  | 2 => numCh * pcmStride
  | 3 => numCh * qgStride
  | 4 => numCh * pcmStride
  | _ => 0

/-- The host may write the space (10_state.md R60: PCM and TD are read-only). -/
def spaceWritable : Nat → Bool
  | 0 | 1 | 3 => true
  | _ => false

/-- MemRead(space, i, 1) in the space's word form (20_memory.md R100; 10_state.md R60). -/
def State.memRead (s : State) (space i : Nat) : Word :=
  match space with
  | 0 => (s.bsmByte i).setWidth 32
  | 1 => s.simElem i
  | 2 => s.pcmElem i
  | 3 => s.qgElem i
  | 4 => s.tdElem i
  | _ => 0

/-- MemWrite(space, i, 1, v) by the host; a space it may not write stays (20_memory.md R100, R104). -/
def State.memWrite (s : State) (space i : Nat) (v : Word) : State :=
  match space with
  | 0 => { s with bsm := s.bsm.set i (v.setWidth 8) }
  | 1 => { s with sim := s.sim.set i v }
  | 3 => { s with qg := s.qg.set i v }
  | _ => s

/-- An out-of-range access: HERR (20_memory.md R104). -/
def State.hostError (s : State) : State := { s with status := { s.status with herr := true } }

/-- HADDR advances (10_state.md R51). -/
def State.advanceHaddr (s : State) : State := { s with haddr := nextHaddr s.haddr }

/-- A host read of HDATA (20_memory.md R100, R104). -/
def State.readHdata (s : State) : State :=
  if s.hindex < spaceSize s.hspace then
    State.advanceHaddr { s with rdata := s.memRead s.hspace s.hindex }
  else State.advanceHaddr (State.hostError { s with rdata := 0 })

/-- A host write of `v` to HDATA (20_memory.md R100, R104). -/
def State.writeHdata (s : State) (v : Word) : State :=
  if s.hindex < spaceSize s.hspace ∧ spaceWritable s.hspace then
    (s.memWrite s.hspace s.hindex v).advanceHaddr
  else s.hostError.advanceHaddr

/-! ### Registers -/

/-- What a read of a register other than HDATA returns; 0 for a reserved offset (10_state.md R41, R44, R52). -/
def State.register (s : State) (offset : Nat) : Word :=
  match offset with
  | 0x00 => s.cfg.implId
  | 0x04 => s.ctrl.toWord
  | 0x08 => s.status.toWord
  | 0x0C => s.cmd
  | 0x10 => s.arg0
  | 0x14 => s.arg1
  | 0x18 => s.result
  | 0x1C => s.bitpos
  | 0x20 => s.bitlen
  | 0x24 => s.fcfg
  | 0x28 => s.seq
  | 0x2C => s.haddr
  | _ => 0

/-- A host read of a register. Only a read of HDATA has a side effect on CORE (20_memory.md R107). -/
def State.readRegister (s : State) (offset : Nat) : State :=
  if offset = 0x30 then s.readHdata else { s with rdata := s.register offset }

/-- A host write of CTRL while no command executes: SRST is a block reset that loses the enable bits of the same word
(10_state.md R42). -/
def State.writeCtrl (s : State) (v : Word) : State :=
  if v.getLsbD 0 then s.blockReset else { s with ctrl := Ctrl.ofWord v }

/-- The issue of a command word: CMD holds it and BUSY is 1 until the command ends (10_state.md R45). -/
def State.issue (s : State) (v : Word) : State := { s with cmd := v, status := { s.status with busy := true } }

/-- A host write of a register while BUSY = 0; a write to a read-only or a reserved offset is ignored
(10_state.md R41, R43, R44, R52). -/
def State.writeRegister (s : State) (offset : Nat) (v : Word) : State :=
  match offset with
  | 0x04 => s.writeCtrl v
  | 0x08 => { s with status := s.status.w1c v }
  | 0x0C => s.issue v
  | 0x10 => { s with arg0 := v }
  | 0x14 => { s with arg1 := v }
  | 0x2C => { s with haddr := v }
  | 0x30 => s.writeHdata v
  | _ => s

/-- A whole word at a 4-byte-aligned offset (20_memory.md R105). -/
def HostAccess.whole (a : HostAccess) : Bool := decide (a.size = 4) && decide (a.offset % 4 = 0)

/-- A host access while BUSY = 0. -/
def State.access (s : State) (a : HostAccess) : Host.Outcome State Fault Refusal :=
  if a.whole then
    match a.write with
    | some v => .next (s.writeRegister a.offset v)
    | none => .next (s.readRegister a.offset)
  else .fault .hostAccessNotAWord

/-! ### The executing command -/

/-- The command in CMD, whole (20_memory.md R107): decode steps 1 and 2 of 30_encoding.md R134, then the meaning. -/
def State.runCommand (s : State) : Host.Outcome State Fault Refusal :=
  match decode s.cmd with
  | .ok i => exec i s
  | .error _ => .next (s.takeFatal .illegalCommand)

/-- FBEGIN, FCOMMIT or FABORT has its own effect from `s`: no error. Their checks come before their writes. -/
def State.hasEffect (s : State) (i : Instr) : Bool :=
  match exec i { s with status := { s.status with done := false } } with
  | .next t => t.status.done
  | _ => false

/-- What the checks of a channel command answer where it gets past them: a legal slot, no discard (60_exceptions.md
R385), its own checks. -/
def State.pastChecks {α : Type} (s : State) (c : BitVec 4) (checks : Except Stop α) : Option α :=
  if slotOk c && !s.failedFrame then checks.toOption else none

/-- The windows of IMDCT before the first with a missing coefficient, which raises an error. -/
def State.windowsWritten (s : State) (c : Fin 8) : List Window :=
  (s.wAt c).wins.takeWhile (fun w => (windowCoefs (s.chanAt c).coef w).isOk)

/-- The timeslots of QMFA before the first with a missing sample of TD, which raises an error. -/
def State.slotsWritten (s : State) (c : Fin 8) (numTs : Nat) : List Nat :=
  (List.range numTs).takeWhile (fun ts => (s.tdSlot c.val ts).isOk)

/-- The timeslots and subbands of ASPXASM before the first with a missing value, which raises an error. -/
def State.bandsWritten (s : State) (c : Fin 8) (numTs : Nat) : List (Nat × Nat) :=
  let x := s.wAt c
  ((List.range numTs).flatMap (fun ts => (List.range' x.sbx (x.sbTop - x.sbx)).map (fun m => (ts, m)))).takeWhile
    (fun e => match s.envelopeAt c e.1 with
      | some l => (assembled s.cfg x (s.chanAt c) l e.1 e.2).isOk
      | none => false)

/-- The elements at `idx` get unspecified contents of a new loss. -/
def forget (m : Memory Word) (space epoch : Nat) (idx : List Nat) : Memory Word :=
  m.setAll (idx.map (fun e => (e, anyWord space epoch e)))

/-- `s` with the elements of PCM, QG and TD that `i` may have written unspecified (70_reset_and_hazards.md R421): those
its pseudocode writes before it ends or raises an error, which undoes them only then (60_exceptions.md R381). DESIGN
CHOICE (log 16). -/
def State.forgetWritten (s : State) (i : Instr) : State :=
  match i with
  | .fbegin _ _ _ _ _ | .fcommit | .fabort => if s.hasEffect i then s.loseGrids else s
  | .imdct c =>
    match s.pastChecks c (s.requireImdct (slotOf c)) with
    | some _ =>
      let idx := (s.windowsWritten (slotOf c)).flatMap (fun w => List.range' ((slotOf c).val * pcmStride + w.off) w.len)
      { s with td := forget s.td 4 s.draw idx, draw := s.draw + 1 }
    | none => s
  | .qmfa c =>
    match s.pastChecks c (s.requireQmfa (slotOf c)) with
    | some n =>
      let idx := (s.slotsWritten (slotOf c) n).flatMap (fun ts => List.range' (qgIndex (slotOf c).val ts 0) 128)
      { s with qg := forget s.qg 3 s.draw idx, draw := s.draw + 1 }
    | none => s
  | .aspxasm c =>
    match s.pastChecks c (s.requireAspxasm (slotOf c)) with
    | some n =>
      let idx := (s.bandsWritten (slotOf c) n).flatMap (fun e => List.range' (qgIndex (slotOf c).val e.1 e.2) 2)
      { s with qg := forget s.qg 3 s.draw idx, draw := s.draw + 1 }
    | none => s
  | .qmfs c =>
    match s.pastChecks c (s.requireQmfs (slotOf c)) with
    | some n =>
      { s with
        pcm := forget s.pcm 2 s.draw (List.range' ((slotOf c).val * pcmStride) (64 * n)), draw := s.draw + 1 }
    | none => s
  | .nop | .chreset _ | .setlayout _ | .rdbits _ | .rdunary _ _ | .rdvlc _ | .rdesc _ => s
  | .sect _ _ _ | .spec _ _ | .sf _ _ _ | .arith _ _ | .deq _ _ | .stereo _ _ => s
  | .aspxcfg _ | .aspxenv _ | .aspxhf _ | .aspxgain _ => s

/-- BLOCK RESET while a command executes: the command is abandoned (70_reset_and_hazards.md R421). -/
def State.abandon (s : State) : State :=
  match decode s.cmd with
  | .ok i => (s.forgetWritten i).blockReset
  | .error _ => s.blockReset

/-- A host access while BUSY = 1: a read of STATUS or a write of CTRL; any other has no step
(70_reset_and_hazards.md R431). -/
def State.busyAccess (s : State) (a : HostAccess) : Host.Outcome State Fault Refusal :=
  if a.whole then
    match a.offset, a.write with
    | 0x08, none => .next (s.readRegister 0x08)
    | 0x04, some v => if v.getLsbD 0 then .next s.abandon else .next (s.writeCtrl v)
    | _, _ => .fault .hostAccessWhileBusy
  else .fault .hostAccessNotAWord

/-! ### One step -/

/-- The next thing that happens: while BUSY = 1 the command runs, unless the host's next access does not wait for it;
while BUSY = 0 the host's next access; without one CORE is idle (70_reset_and_hazards.md R422, R430). -/
def State.advance (s : State) : Host.Outcome State Fault Refusal :=
  match s.hostQ with
  | [] => if s.status.busy then s.runCommand else .next s
  | a :: q =>
    if s.status.busy then
      if a.whileBusy then { s with hostQ := q }.busyAccess a else s.runCommand
    else { s with hostQ := q }.access a

/-- A command word accepted and about to run: the state between its CMD write and its effects. -/
def State.withCommand (s : State) (v : Word) : State :=
  { s.issue v with hostQ := s.hostQ.dropWhile (·.whileBusy) }

end Sys2Proof.Machine
end

