-- ==== Sys2Proof/Machine/Step.lean ====
section
/-! DEFINITION. The step of CORE, and how a command word is placed so that the next step runs it. -/

namespace Sys2Proof.Machine

open Sys2Proof

/-- One step (20_memory.md R110): the command in progress, or the host's next access. -/
def step (s : State) : Host.Outcome State Fault Refusal := s.advance

/-- `s` after the host's CMD write of a table row's word (10_state.md R45): CORE has no program counter and fetches
nothing (R47), so the next step runs the word in CMD. Log 2. -/
def State.withFetchWord (s : State) (nbits w : Nat) : State := s.withCommand (BitVec.ofNat 32 (w % 2 ^ nbits))

end Sys2Proof.Machine
end

