-- ==== Sys2Proof/Safety.lean ====
section
/-! DEFINITION. What counts as a legal state of CORE, and the terms in which statements speak of a command: what it may
touch, and the bits it reads. -/

namespace Sys2Proof.Machine

open Sys2Proof Config

/-! ### Legal parameters and legal states -/

/-- The parameters a command can refuse are legal: every VLC table is prefix-free, every SFB_OFFSETS list rises from 0
to at most N (00_scope.md R20; 40_control.md R167; U17 of 93_implementation_defined.md). -/
def parametersLegal (p : Params) : Bool :=
  p.vlc.all (fun e => vlcLegal e.2)
    && flbTable.all (fun flb => (tlenTable flb).all (fun n => sfbLegal (p.sfb flb n) n))

/-- Every memory space is in its canonical form. -/
def State.canonical (s : State) : Bool := s.bsm.wf && s.sim.wf && s.pcm.wf && s.qg.wf && s.td.wf

/-- BITPOS ≤ BITLEN (10_state.md R48). -/
def State.cursorLegal (s : State) : Prop := s.bitpos.toNat ≤ s.bitlen.toNat

/-- ERRCODE is a fatal code while ERR = 1 and 0 while ERR = 0, WARNCODE likewise, and only an open frame has failed
(60_exceptions.md R380 to R384; U15 of 93_implementation_defined.md). -/
def State.statusLegal (s : State) : Bool :=
  (if s.status.err then decide (1 ≤ s.status.errcode.toNat) && decide (s.status.errcode.toNat ≤ 6)
    else s.status.errcode == 0)
  && (if s.status.warn then s.status.warncode == 16 || s.status.warncode == 17 else s.status.warncode == 0)
  && (!s.status.ffail || s.status.fopen)

/-- The reserved bits of FCFG and SEQ read 0 and FLB_IDX is at most 8 (10_state.md R49, R50). -/
def State.registersLegal (s : State) : Bool :=
  decide (s.fcfg.toNat < 2 ^ 11) && decide ((s.fcfg.extractLsb' 0 4).toNat ≤ 8)
    && decide (s.seq &&& 0x7FFFFC00#32 = 0) && (s.seq.getLsbD 31 || decide (s.seq = 0))

/-- With no frame open no frame-scoped field holds a value; an open frame has a frameLengthBase of the table, the
timeslots that follow from it, and a byte range inside BSM (10_state.md R80, R84; 40_control.md R162). -/
def State.frameLegal (s : State) : Prop :=
  if s.status.fopen then
    s.frame.flb ∈ flbTable ∧ s.frame.numTs = slotsOf s.frame.flb ∧
      s.bitlen.toNat % 8 = 0 ∧ s.frame.base + s.bitlen.toNat / 8 ≤ bsmBytes
  else s.frame = Frame.reset ∧ ∀ c, s.chanAt c = ChanFrame.empty

/-- The ranges of 10_state.md R71, R73 and R74 of one ChannelState. -/
def ChannelState.legal (p : Params) (x : ChannelState) : Prop :=
  x.ngroups ≤ 16 ∧ (∀ g, x.maxSfb.get g ≤ Config.maxSfb) ∧ (∀ w ∈ x.wins, w.off + w.len ≤ maxTlen) ∧
  x.qhist.length = p.histTs ∧ x.sbx ≤ x.sbTop ∧ x.sbTop ≤ 64 ∧ x.patches.length ≤ maxPatches

/-- Both generations of every slot are legal. -/
def State.channelsLegal (s : State) : Prop := ∀ c, (s.wAt c).legal s.cfg ∧ (s.kAt c).legal s.cfg

/-! ### What a command leaves alone -/

/-- The registers and memories no command writes (10_state.md R45, R46, R61, R62; 00_scope.md R16). -/
def hostSideKept (s t : State) : Prop :=
  t.cfg = s.cfg ∧ t.ctrl = s.ctrl ∧ t.cmd = s.cmd ∧ t.arg0 = s.arg0 ∧ t.arg1 = s.arg1 ∧ t.haddr = s.haddr ∧
    t.bsm = s.bsm ∧ t.sim = s.sim ∧ t.hostQ = s.hostQ ∧ t.rdata = s.rdata

/-- The registers only FBEGIN writes, K, and F (10_state.md R48 to R50, R70, R80). -/
def frameSideKept (s t : State) : Prop :=
  t.bitlen = s.bitlen ∧ t.fcfg = s.fcfg ∧ t.seq = s.seq ∧ t.k = s.k ∧ t.frame = s.frame

/-- The three memory spaces commands write. -/
def gridsKept (s t : State) : Prop := t.pcm = s.pcm ∧ t.qg = s.qg ∧ t.td = s.td

/-- W and F[c] of every slot but those of `cs`. -/
def otherSlotsKept (cs : List (Fin 8)) (s t : State) : Prop :=
  ∀ d, d ∉ cs → t.wAt d = s.wAt d ∧ t.chanAt d = s.chanAt d

/-- What a channel command on the slots `cs` leaves alone, RESULT among it; the cursor, W[c] and F[c] of its own
slots, and the three grids are not part of this. -/
def channelFrame (cs : List (Fin 8)) (s t : State) : Prop :=
  hostSideKept s t ∧ frameSideKept s t ∧ otherSlotsKept cs s t ∧ t.result = s.result

/-- A frame is open and has not failed, so that a channel command runs (60_exceptions.md R383, R385). -/
def State.running (s : State) : Prop := s.status.fopen = true ∧ s.status.ffail = false

/-! ### Bits -/

/-- The number in the `n` bits of the byte range from bit `pos` on, the first bit the most significant
(20_memory.md R101). -/
def State.fieldAt (s : State) (pos : Nat) : Nat → Nat
  | 0 => 0
  | n + 1 => 2 * s.fieldAt pos n + (s.bitAt (pos + n)).toNat

/-- `v` as `n` bits, the most significant first. -/
def bitsOf (v : Nat) : Nat → List Bool
  | 0 => []
  | n + 1 => v.testBit n :: bitsOf v n

/-- A run length as its chunks of `w` bits: all-ones chunks and one that is not (42_spectral.md R211). -/
def runBits (w len : Nat) : List Bool :=
  List.replicate (w * (len / (2 ^ w - 1))) true ++ bitsOf (len % (2 ^ w - 1)) w

/-- A section table, each section its codebook and its length, as bits (42_spectral.md R210). -/
def sectionBits (w : Nat) : List (Nat × Nat) → List Bool
  | [] => []
  | (cb, len) :: l => bitsOf cb cbBits ++ (runBits w len ++ sectionBits w l)

/-- The bits of the range from `pos` on begin with `l`, and the range holds them. -/
def State.holdsBits (s : State) (pos : Nat) (l : List Bool) : Prop :=
  pos + l.length ≤ s.bitlen.toNat ∧ ∀ k (h : k < l.length), s.bitAt (pos + k) = l[k]

/-- The chunks of an escape-extended integer as bits, each followed by a set continuation flag (41_bitreader.md R198). -/
def escBits (base : Nat) (l : List Nat) : List Bool := l.flatMap (fun c => bitsOf c base ++ [true])

/-- The value of an escape-extended integer after chunks that were each followed by a set flag (41_bitreader.md R198). -/
def escAfter (base : Nat) (l : List Nat) : Nat := l.foldl (fun v c => (v + c) * 2 ^ base + 2 ^ base) 0

/-- A codeword as bits. -/
def codeBits (e : VlcEntry) : List Bool := bitsOf e.code e.len

/-- The explicit sign bits of the magnitudes of a tuple (42_spectral.md R216). -/
def signBits (v : List Int) : List Bool := (v.filter (fun x => x != 0)).map (fun x => decide (x < 0))

/-- The escape of a value of magnitude 16 or more (42_spectral.md R216): n ones, a zero, and n + 4 bits. -/
def escapeBits (v : Int) : List Bool :=
  let n := v.natAbs.log2 - 4
  List.replicate n true ++ false :: bitsOf (v.natAbs - 2 ^ (n + 4)) (n + 4)

/-- The digits of a tuple: what a symbol stands for before signs and escapes (42_spectral.md R216). -/
def CbDesc.digitsOf (d : CbDesc) (v : List Int) : List Nat :=
  v.map (fun (x : Int) => if d.signed then (x + (d.lav : Int)).toNat else min x.natAbs d.lav)

/-- A list of digits in base `m` as a number, the first the most significant. -/
def undigits (m : Nat) (l : List Nat) : Nat := l.foldl (fun n u => n * m + u) 0

/-- `v` is a tuple that codebook `d` can stand for (42_spectral.md R215, R216): `dim` values, none beyond `lav` but for
an escape, which is below 2^13. -/
def CbDesc.codes (d : CbDesc) (v : List Int) : Bool :=
  decide (v.length = d.dim)
    && v.all (fun x => decide (x.natAbs ≤ d.lav) || (d.esc && !d.signed && decide (d.lav = 16) && decide (x.natAbs < 2 ^ 13)))

/-- A tuple as bits under codebook `d`, `e` the codeword of its symbol (42_spectral.md R216). -/
def tupleBits (d : CbDesc) (e : VlcEntry) (v : List Int) : List Bool :=
  codeBits e ++ ((if d.signed then [] else signBits v)
    ++ (if d.esc then (v.filter (fun x => decide (16 ≤ x.natAbs))).flatMap escapeBits else []))

/-- What SF reads for the bands of a group, as bits: for each band whether it has an explicit scale factor, and the
codeword read for it; `first` says that no explicit value was read yet (42_spectral.md R218). -/
def sfBits (snfp : Bool) : Bool → List (Bool × VlcEntry) → List Bool
  | _, [] => []
  | first, (true, e) :: l => (if first then bitsOf e.sym sfRefBits else codeBits e) ++ sfBits snfp false l
  | first, (false, e) :: l => (if snfp then codeBits e else []) ++ sfBits snfp first l

/-- The codewords SF reads are there to be read: an absolute value of 8 bits, a codeword of `tab` for a difference and
of `noise` for a noise-fill value (42_spectral.md R218). -/
def sfReadable (tab noise : List VlcEntry) (snfp : Bool) : Bool → List (Bool × VlcEntry) → Prop
  | _, [] => True
  | first, (true, e) :: l => (if first then e.sym < 2 ^ sfRefBits else e ∈ tab) ∧ sfReadable tab noise snfp false l
  | first, (false, e) :: l => (snfp = true → e ∈ noise) ∧ sfReadable tab noise snfp first l

/-- The scale factor and the noise-fill value of each band, and the accumulators after them, from the symbols read
(42_spectral.md R218). -/
def sfValues (snfp : Bool) : SfAcc → List (Bool × VlcEntry) → List (Option Int × Option Int) × SfAcc
  | a, [] => ([], a)
  | a, (true, e) :: l =>
    let v : Int := if a.first then e.sym else a.acc + e.sym - 60
    let r := sfValues snfp ⟨false, v, a.snf⟩ l
    ((some v, none) :: r.1, r.2)
  | a, (false, e) :: l =>
    let n : Int := if snfp then a.snf + e.sym - 60 else a.snf
    let r := sfValues snfp ⟨a.first, a.acc, n⟩ l
    ((none, if snfp then some n else none) :: r.1, r.2)

/-- Tuples read one after another from bit `pos` to bit `pos'` (42_spectral.md R214): DecodeTuple answers each. -/
def State.readsTuples (s : State) (d : CbDesc) (table : Nat) : Nat → List (List Int) → Nat → Prop
  | pos, [], pos' => pos' = pos
  | pos, v :: l, pos' => ∃ p, decodeTuple s d table pos = .ok (v, p) ∧ s.readsTuples d table p l pos'

/-- Sections, each its codebook, its samples and their values, read from bit `pos` to bit `pos'` (42_spectral.md R214):
codebook 0 reads nothing and gives 0, another one gives the values of its tuples in order. -/
def State.readsSections (s : State) : Nat → List (Nat × List Nat × List Int) → Nat → Prop
  | pos, [], pos' => pos' = pos
  | pos, (cb, samples, vals) :: l, pos' => ∃ p,
      (if cb = 0 then vals = List.replicate samples.length 0 ∧ p = pos
       else ∃ d tuples, cbDesc cb = some d ∧ samples.length = d.dim * tuples.length ∧ vals = tuples.flatten ∧
         s.readsTuples d (atD s.cfg.cbTable cb 0) pos tuples p) ∧
      s.readsSections p l pos'

/-- Runs of bands of group g from band `b` on, each its codebook, its number of bands and its values, as sections
(42_spectral.md R214). -/
def runSections (x : ChannelState) (g : Nat) : Nat → List (Nat × Nat × List Int) → List (Nat × List Nat × List Int)
  | _, [] => []
  | b, (cb, n, vals) :: l => (cb, (List.range' b n).flatMap (x.samples g), vals) :: runSections x g (b + n) l

/-- The codebook of each band of the runs. -/
def runBooks (l : List (Nat × Nat × List Int)) : List Nat := l.flatMap (fun e => List.replicate e.2.1 e.1)

/-- Band b of group g has an explicit scale factor or not: a codebook other than 0, and then a magnitude other than 0
(42_spectral.md R217, R218). With codebook 0 the magnitude is not looked at: DEDUCED (log 21). -/
def ChanFrame.scaled (f : ChanFrame) (g b : Nat) (explicit : Bool) : Prop :=
  ∃ cb, f.cb.at? (64 * g + b) = some cb ∧
    if cb = 0 then explicit = false
    else ∃ mag, f.maxMag.at? (64 * g + b) = some mag ∧ explicit = decide (mag ≠ 0)

/-- The bits from `p` on are no prefix of a codeword of `tab`, within the range, and begin with none (41_bitreader.md
R197). -/
def State.malformedAt (s : State) (tab : List VlcEntry) (p : Nat) : Prop :=
  ∃ n, 1 ≤ n ∧ p + n ≤ s.bitlen.toNat ∧ (∀ e ∈ tab, e.len ≤ n → ¬s.holdsBits p (codeBits e)) ∧
    ∀ e ∈ tab, n ≤ e.len → ¬s.holdsBits p ((codeBits e).take n)

/-- The range ends at `p` or inside a codeword of `tab` (41_bitreader.md R197). -/
def State.truncatedAt (s : State) (tab : List VlcEntry) (p : Nat) : Prop :=
  s.bitlen.toNat = p ∨
    ∃ e ∈ tab, s.bitlen.toNat < p + e.len ∧ s.holdsBits p ((codeBits e).take (s.bitlen.toNat - p))

/-! ### What a command leaves behind -/

/-- The state after a fatal error of code `n`: nothing but STATUS changes (60_exceptions.md R381, R382). -/
def State.failedWith (s : State) (n : BitVec 8) : State :=
  { s with status := { s.status with
    errcode := if s.status.err then s.status.errcode else n
    err := true
    ffail := s.status.ffail || s.status.fopen
    busy := false } }

/-- The state after a command without any effect of its own: DONE, and BUSY back to 0 (60_exceptions.md R386). -/
def State.ended (s : State) : State := { s with status := { s.status with done := true, busy := false } }

/-- A command on the slots `cs` ran to its end: STATUS but for DONE and BUSY, RESULT, the registers and memories no
command writes, those only FBEGIN and FCOMMIT write, and every other slot are as before. -/
def endsOn (cs : List (Fin 8)) (s t : State) : Prop :=
  channelFrame cs s t ∧ t.status = s.ended.status

/-- The entries of two arrays agree but at the indexes `p`. -/
def Tab.sameBut {α : Type} {n : Nat} (p : Nat → Prop) (t u : Tab α n) : Prop := ∀ i, ¬p i → u.at? i = t.at? i

/-- No stage flag of F[c] but `x` changes, and `x` is set (10_state.md R86). -/
def doneAdds (x : Stage) (d e : Done) : Prop := ∀ y, e.has y = (d.has y || decide (y = x))

/-- The command in CMD is about to run: BUSY = 1, and the host waits for its end (10_state.md R45). -/
def State.aboutToRun (s : State) : Prop := s.status.busy = true ∧ ∀ a ∈ s.hostQ.head?, a.whileBusy = false

/-! ### Reset values -/

/-- The reset column of 10_state.md R71 to R75, `hist` timeslots of QMF history. -/
def ChannelState.atReset (hist : Nat) (x : ChannelState) : Prop :=
  x.ngroups = 0 ∧ (∀ g, x.nwin.get g = 0 ∧ x.tlen.get g = 0 ∧ x.maxSfb.get g = 0) ∧ (∀ i, x.smap.get i = none) ∧
  x.wins = [] ∧ (∀ i, x.acc.get i = 0) ∧ (∀ i, x.tail.get i = 0) ∧ x.nprev = 0 ∧ x.flbPrev = 0 ∧
  (∀ i, x.qa.get i = 0) ∧ (∀ i, x.qs.get i = 0) ∧ x.qhist.length = hist ∧
  (∀ row ∈ x.qhist, ∀ k, row.get k = ⟨0, 0⟩) ∧
  x.cfgPrev = none ∧ x.masterResetPending = true ∧ x.tablesValid = false ∧ x.sbgMaster = [] ∧ x.sbgHi = [] ∧
  x.sbgLo = [] ∧ x.sbgNoise = [] ∧ x.sbgLim = [] ∧ x.patches = [] ∧ x.sbx = 0 ∧ x.sbTop = 0 ∧
  (∀ i, x.qscfPrev.get i = 0) ∧ x.freqResPrev = true ∧ (∀ j, x.qnoisePrev.get j = 0) ∧ (∀ j, x.invfPrev.get j = 0) ∧
  (∀ j, x.chirpPrev.get j = 0) ∧ (∀ p, x.alphaPrev.get p = (⟨0, 0⟩, ⟨0, 0⟩)) ∧
  (∀ m, x.noiseIdx.get m = 0 ∧ x.sineIdx.get m = 0)

/-- Every register, K, W, F and F[c] at its reset value, and IRQ 0 (70_reset_and_hazards.md R420). -/
def atResetValues (s : State) : Prop :=
  s.ctrl.toWord = 0 ∧ s.status.toWord = 0 ∧ s.cmd = 0 ∧ s.arg0 = 0 ∧ s.arg1 = 0 ∧ s.result = 0 ∧ s.bitpos = 0 ∧
  s.bitlen = 0 ∧ s.fcfg = 0 ∧ s.seq = 0 ∧ s.haddr = 0 ∧
  (∀ c, (s.wAt c).atReset s.cfg.histTs ∧ (s.kAt c).atReset s.cfg.histTs) ∧
  s.frame.flb = 0 ∧ s.frame.numTs = none ∧ s.frame.indep = false ∧ s.frame.base = 0 ∧
  (∀ c, s.chanAt c = ChanFrame.empty) ∧ s.irq = false

/-! ### The layout SETLAYOUT reads -/

/-- WL_NWIN[g], WL_TLEN[g], WL_MAXSFB[g] (10_state.md R62). -/
def State.wlNwin (s : State) (c : Fin 8) (g : Nat) : Int := s.simWord c (Sim.wlNwin g)
def State.wlTlen (s : State) (c : Fin 8) (g : Nat) : Int := s.simWord c (Sim.wlTlen g)
def State.wlMaxsfb (s : State) (c : Fin 8) (g : Nat) : Int := s.simWord c (Sim.wlMaxsfb g)

/-- The first sample of group g: the samples of the groups before it. -/
def State.wlStart (s : State) (c : Fin 8) (g : Nat) : Int :=
  ((List.range g).map (fun k => s.wlNwin c k * s.wlTlen c k)).sum

/-- The layout words of SIM[c] pass every check of 40_control.md R166. -/
def State.layoutLegal (s : State) (c : Fin 8) : Prop :=
  let n := s.simWord c Sim.wlNgroups
  1 ≤ n ∧ n ≤ 16 ∧
  (∀ g < n.toNat, 1 ≤ s.wlNwin c g ∧ (∃ len ∈ tlenTable s.frame.flb, s.wlTlen c g = len) ∧ 0 ≤ s.wlMaxsfb c g ∧
    s.wlMaxsfb c g + 1 ≤ (s.cfg.sfb s.frame.flb (s.wlTlen c g).toNat).length ∧ s.wlMaxsfb c g ≤ Config.maxSfb) ∧
  s.wlStart c n.toNat = s.frame.flb

/-! ### The coefficients STEREO selects -/

/-- ST_ALPHA_SYM[g][b] − 60 (43_stereo_imdct.md R252). -/
def State.alphaStep (s : State) (c : Fin 8) (g b : Nat) : Int := s.simWord c (Sim.stAlphaSym g b) - 60

/-- The sum a group starts from: the last sum of the group before it if that has as many bands, else 0
(43_stereo_imdct.md R252). -/
def State.alphaStart (s : State) (c : Fin 8) : Nat → Int
  | 0 => 0
  | g + 1 =>
    if (s.wAt c).bands (g + 1) = (s.wAt c).bands g then
      s.alphaStart c g + ((List.range ((s.wAt c).bands g)).map (s.alphaStep c g)).sum
    else 0

/-- alpha[g][b] (43_stereo_imdct.md R252). -/
def State.alpha (s : State) (c : Fin 8) (g b : Nat) : Real32 :=
  R32.mul (R32.ofInt (s.alphaStart c g + ((List.range (b + 1)).map (s.alphaStep c g)).sum)) (R32.ofRat 1 10)

/-- Select(mode, g, b): the matrix's alpha, none for identity (43_stereo_imdct.md R251). -/
def State.stereoChoice (s : State) (c : Fin 8) (g b : Nat) : Option Real32 :=
  let mode := s.simWord c Sim.stMode
  if mode = 0 then none
  else if mode = 1 then some 0
  else if mode = 2 then (if s.simWord c (Sim.stMsused g b) = 1 then some 0 else none)
  else some (s.alpha c g b)

/-- Select(mode, g, b) raises InvalidBlockConfig: a flag that is not 0 or 1, a negative symbol (43_stereo_imdct.md R251,
R252). -/
def State.stereoBad (s : State) (c : Fin 8) (g b : Nat) : Prop :=
  (s.simWord c Sim.stMode = 2 ∧ s.simWord c (Sim.stMsused g b) ≠ 0 ∧ s.simWord c (Sim.stMsused g b) ≠ 1) ∨
    (s.simWord c Sim.stMode = 3 ∧ s.simWord c (Sim.stAlphaSym g b) < 0)

/-- A sample of band (g, b) that a matrix is selected for has no coefficient in one of the two channels (10_state.md
R83). -/
def State.stereoMissing (s : State) (c c2 : Fin 8) (g b : Nat) : Prop :=
  (s.stereoChoice c g b).isSome = true ∧ ∃ k < 2048, (s.wAt c).mapAt k = some (g, b) ∧
    ((s.chanAt c).coef.at? k = none ∨ (s.chanAt c2).coef.at? k = none)

/-! ### The windows IMDCT runs through -/

/-- A channel's record through its windows in order, and for each window its first sample and what it emits
(43_stereo_imdct.md R256); `coef` is the coefficient of each sample. -/
def imdctRun (flb : Nat) (coef : Nat → Real32) : ChannelState → List Window → ChannelState × List (Nat × List Real32)
  | x, [] => (x, [])
  | x, w :: l =>
    let e := imdctWindow flb x w.len ((List.range w.len).map (fun k => coef (w.off + k))).toArray
    let r := imdctRun flb coef e.1 l
    (r.1, (w.off, e.2) :: r.2)

/-! ### What BuildTables computes -/

/-- The variables of Patches between two turns of its outer loop (45_aspx_tables.md R306). -/
structure Walk where
  k : Nat
  msb : Nat
  usb : Nat
  ps : List RawPatch
  sb : Nat

/-- One turn of the outer loop of Patches (45_aspx_tables.md R306): the walk goes down from border k to the first border
M[i] ≤ k0 − 1 + msb − odd, odd the parity of M[i] + k0, and the run from usb up to it becomes a patch whose source ends
at k0 − odd. -/
def walkTurn (m : List Nat) (sbx : Nat) (w v : Walk) : Prop :=
  let k0 := entry m 0
  let fits (i : Nat) := entry m i + 1 + (entry m i + k0) % 2 ≤ k0 + w.msb
  w.ps.length < 6 ∧
  (∃ i ≤ w.k, fits i ∧ (∀ j, i < j → j ≤ w.k → ¬fits j) ∧ v.sb = entry m i ∧
    (w.usb < v.sb →
      v.ps = w.ps ++ [⟨(k0 : Int) - ((v.sb + k0) % 2 : Nat) - (v.sb - w.usb : Nat), w.usb, v.sb - w.usb⟩] ∧
      v.usb = v.sb ∧ v.msb = v.sb) ∧
    (v.sb ≤ w.usb → v.ps = w.ps ∧ v.usb = w.usb ∧ v.msb = sbx)) ∧
  v.k = if entry m w.k < v.sb + 3 then m.length - 1 else w.k

/-- `ps` is the list of patches the outer loop of Patches ends with (45_aspx_tables.md R306): turns from its first state
to the first border that is sbTop, no two in a row from the same (k, msb). GOAL_SB is at its default, sbTop (log 8). -/
def walked (m : List Nat) (sbx sbTop : Nat) (ps : List RawPatch) : Prop :=
  ∃ (n : Nat) (st : Nat → Walk), 0 < n ∧ st 0 = ⟨m.length - 1, entry m 0, sbx, [], 0⟩ ∧
    (∀ i < n, walkTurn m sbx (st i) (st (i + 1))) ∧
    (∀ i, i + 1 < n → (st (i + 1)).sb ≠ sbTop ∧ ((st i).k, (st i).msb) ≠ ((st (i + 1)).k, (st (i + 1)).msb)) ∧
    (st n).sb = sbTop ∧ (st n).ps = ps

/-- PB: the patch borders (45_aspx_tables.md R307). -/
def bordersOf (sbx : Nat) (ps : List RawPatch) : List Nat :=
  (List.range (ps.length + 1)).map (fun i => sbx + ((ps.take i).map (·.count)).sum)

/-- One turn of the loop of LimiterTable (45_aspx_tables.md R307): what is kept after candidate `x`. -/
def limiterTurn (pb : List Nat) (kept : List Nat) (x : Nat) : List Nat :=
  match kept.getLast? with
  | none => [x]
  | some o =>
    if 2 ^ 49 * o ^ 200 ≤ x ^ 200 then kept ++ [x]
    else if x = o ∨ x ∉ pb then kept
    else if o ∉ pb then kept.dropLast ++ [x]
    else kept ++ [x]

/-! ### Balance pairs -/

/-- The grids (L, tenv, r_l, LQ, tnoise) of two channels are the same (46_aspx_synthesis.md R352), offsets past the end of
SIM[c] left out (log 11). -/
def State.gridsSame (s : State) (x p : Fin 8) : Prop :=
  let same (o : Nat) := o < 4096 → s.simWord x o = s.simWord p o
  same 0x906 ∧ same 0x907 ∧
  (∀ l : Nat, (l : Int) ≤ s.simWord x 0x906 → same (0x910 + l)) ∧
  (∀ l : Nat, (l : Int) < s.simWord x 0x906 → same (0x920 + l)) ∧
  (∀ q : Nat, (q : Int) ≤ s.simWord x 0x907 → same (0x918 + q))

/-- Slot p names x as its partner and agrees with it in grids, tables and divisor (46_aspx_synthesis.md R352). -/
def State.agreesAsPair (s : State) (x p : Fin 8) : Prop :=
  s.simWord p 0x908 = 1 ∧ s.simWord p 0x909 = x.val ∧ s.gridsSame x p ∧
  (s.wAt p).sbgHi = (s.wAt x).sbgHi ∧ (s.wAt p).sbgLo = (s.wAt x).sbgLo ∧ (s.wAt p).sbgNoise = (s.wAt x).sbgNoise ∧
  s.simWord p 0x905 = s.simWord x 0x905

/-! ### Legal subband-group tables -/

/-- The tables of a slot whose tables are valid: strictly increasing in [sbgMaster[0], 64], Hi, Lo and Nz from sbx to
sbTop, the patches contiguous from sbx on and fed from below sbx (10_state.md R76; 45_aspx_tables.md R302, R304, R305,
R308). -/
def ChannelState.tablesLegal (x : ChannelState) : Prop :=
  x.tablesValid = true →
    (∀ t ∈ [x.sbgMaster, x.sbgHi, x.sbgLo, x.sbgNoise, x.sbgLim], tableOk (entry x.sbgMaster 0) t = true) ∧
    1 ≤ entry x.sbgMaster 0 ∧
    (∀ t ∈ [x.sbgHi, x.sbgLo, x.sbgNoise], t.head? = some x.sbx ∧ t.getLast? = some x.sbTop) ∧
    groups x.sbgHi ≤ maxSbg ∧ groups x.sbgNoise ≤ maxNoiseSbg ∧
    (∀ p ∈ x.patches, 1 ≤ p.count ∧ p.src + p.count ≤ x.sbx ∧ p.dst + p.count ≤ x.sbTop) ∧
    (∀ p ∈ x.patches.head?, p.dst = x.sbx) ∧
    x.patches.IsChain (fun p r => r.dst = p.dst + p.count)

/-- The tables of both generations of every slot are legal. -/
def State.tablesLegal (s : State) : Prop := ∀ c, (s.wAt c).tablesLegal ∧ (s.kAt c).tablesLegal

end Sys2Proof.Machine
end

