-- ==== Sys2Proof/Certificates/Slice0/Obligations.lean ====
section
/-! DEFINITION. The statements for the provers, one `def Obligations.<Name> : Prop` each. -/

open Sys2Proof Sys2Proof.Machine Sys2Proof.Config

/-! ## Encoding -/

/-- A word stands for a command exactly if it is the command's own word, each operand at every value its field admits
(30_encoding.md R131, R133, R136). -/
def Obligations.DecodeAndEncodeAgree : Prop := ∀ (w : Word) (i : Instr), decode w = .ok i ↔ w = encode i

/-- The decoder reads a row's command exactly where (word AND mask) = match, at most one row matches, and a word that
matches none is told apart by whether its OP is in a row (30_encoding.md R134 steps 1 and 2, R136). -/
def Obligations.RowsMatchWords : Prop :=
  ∀ w : Word,
    (∀ i, decode w = .ok i → w &&& (rowOf i).2 = (rowOf i).1) ∧
    (∀ r ∈ tableRows, w &&& r.2 = r.1 → ∃ i, decode w = .ok i ∧ rowOf i = r) ∧
    (∀ r ∈ tableRows, ∀ r' ∈ tableRows, w &&& r.2 = r.1 → w &&& r'.2 = r'.1 → r = r') ∧
    (decode w = .error .opcode ↔ ∀ r ∈ tableRows, opField w ≠ opField r.1) ∧
    (decode w = .error .field ↔
      (∃ r ∈ tableRows, opField w = opField r.1) ∧ ∀ r ∈ tableRows, w &&& r.2 ≠ r.1)

/-- Some words written out from the patterns of 30_encoding.md R136, and what they stand for. -/
def Obligations.WordsDecodeAsWritten : Prop :=
  decode 0b00000000_0000_0000_0000000000000000#32 = .ok .nop ∧
  decode 0b00000010_0000_0000_0000110100000101#32 = .ok (.fbegin 5 0 1 true true) ∧
  decode 0b00010001_0000_0001_0000000000010000#32 = .ok (.rdunary true 16) ∧
  decode 0b00100000_0110_1011_0000000000000101#32 = .ok (.sect 6 11 5) ∧
  decode 0b00100010_0011_0001_0000000000000001#32 = .ok (.sf 3 1 true) ∧
  decode 0b00110000_0010_0111_0000000000000000#32 = .ok (.stereo 2 7) ∧
  decode 0b01010001_0100_0000_0000000000000000#32 = .ok (.qmfs 4) ∧
  decode 0b01100100_0101_0000_0000000000000000#32 = .ok (.aspxasm 5) ∧
  decode 0b00000110_0000_0000_0000000000000000#32 = .error .opcode ∧
  decode 0b00000001_0000_0001_0000000000000000#32 = .error .field

/-- A step with a command about to run is the command in CMD; and the word that `withFetchWord` places is the command
the very next step runs (10_state.md R45).
That the command runs in the step after its CMD write is the model's choice (log 2). -/
def Obligations.StepRunsDecodedCommand : Prop :=
  (∀ (s : State) (i : Instr), s.aboutToRun → decode s.cmd = .ok i → step s = exec i s) ∧
  (∀ (s : State) (nbits w : Nat) (i : Instr), decodeTableWord nbits w = some i →
    step (s.withFetchWord nbits w) = exec i (s.withFetchWord nbits w))

/-- The decode order, in full: an opcode of no row, then a set must-be-zero bit, then a slot field of 8 or more raises
IllegalCommand with no effect but that of a fatal error; a word past these checks runs its opcode's own rule
(30_encoding.md R134). -/
def Obligations.DecodeOrder : Prop :=
  ∀ s : State, s.aboutToRun →
    ((∀ r ∈ tableRows, opField s.cmd ≠ opField r.1) → step s = .next (s.failedWith 6)) ∧
    ((∀ r ∈ tableRows, s.cmd &&& r.2 ≠ r.1) → step s = .next (s.failedWith 6)) ∧
    (∀ i, decode s.cmd = .ok i → (∃ c ∈ i.slots, 8 ≤ c.toNat) → step s = .next (s.failedWith 6)) ∧
    (∀ i, decode s.cmd = .ok i → (∀ c ∈ i.slots, c.toNat < 8) → step s = exec i s)

/-- Every opcode outside the table is reserved and raises IllegalCommand, the extension opcodes too (30_encoding.md
R137). -/
def Obligations.ReservedOpcodesRaise : Prop :=
  ∀ s : State, s.aboutToRun →
    (let op := (opField s.cmd).toNat
     (0x06 ≤ op ∧ op ≤ 0x0F) ∨ (0x14 ≤ op ∧ op ≤ 0x1F) ∨ (0x25 ≤ op ∧ op ≤ 0x2F) ∨ (0x31 ≤ op ∧ op ≤ 0x3F) ∨
      (0x41 ≤ op ∧ op ≤ 0x4F) ∨ (0x52 ≤ op ∧ op ≤ 0x5F) ∨ (0x65 ≤ op ∧ op ≤ 0xFF)) →
    step s = .next (s.failedWith 6)

/-! ## Errors, warnings, flags -/

/-- A command ends with BUSY = 0, and either it completes, with DONE set and ERR and ERRCODE as before, or it raised a
fatal error and nothing but STATUS changed (60_exceptions.md R381, R386). Which of the two it is does not depend on what
DONE and ERR were: the same command from the state with both cleared, `s0`, ends the same way, so a state with DONE = 1
and ERR = 1 is no exception. -/
def Obligations.FatalErrorsArePrecise : Prop :=
  ∀ s t : State, s.aboutToRun → step s = .next t →
    let s0 : State := { s with status := { s.status with done := false, err := false, errcode := 0 } }
    t.status.busy = false ∧
    ((∃ t0, step s0 = .next t0 ∧ t0.status.done = true ∧ t0.status.err = false ∧ t.status.done = true ∧
        t.status.err = s.status.err ∧ t.status.errcode = s.status.errcode) ∨
      ∃ e : FatalError, t = s.failedWith e.code ∧ 1 ≤ e.code.toNat ∧ e.code.toNat ≤ 6 ∧
        step s0 = .next (s0.failedWith e.code))

/-- In a failed frame NOP, FCOMMIT and FABORT execute, FBEGIN raises IllegalCommand, and every other command is
discarded, after the decode checks (60_exceptions.md R383). -/
def Obligations.FailedFrameDiscards : Prop :=
  ∀ s : State, s.status.fopen = true → s.status.ffail = true →
    (s.aboutToRun → ∀ e, decode s.cmd = .error e → step s = .next (s.failedWith 6)) ∧
    ∀ i : Instr,
      ((∃ c ∈ i.slots, 8 ≤ c.toNat) → exec i s = .next (s.failedWith 6)) ∧
      ((∀ c ∈ i.slots, c.toNat < 8) →
        match i with
        | .nop => exec i s = .next s.ended
        | .fcommit | .fabort => ∃ t, exec i s = .next t ∧ t.status.fopen = false ∧ t.status.ffail = false ∧
            t.status.done = true ∧ t.status.pcmv = s.status.pcmv ∧ t.k = s.k ∧ t.w = s.w ∧ t.pcm = s.pcm
        | .fbegin _ _ _ _ _ => exec i s = .next (s.failedWith 6)
        | _ => exec i s = .next s.ended)

/-- With legal parameters every command ends in a next state; with any, none faults, and only SETLAYOUT, RDVLC, SPEC and
SF can be refused (93_implementation_defined.md U17; 60_exceptions.md R385).
Refusing an illegal parameter where it is used is the model's choice (log 14). -/
def Obligations.OnlyIllegalParametersStop : Prop :=
  ∀ (i : Instr) (s : State),
    (parametersLegal s.cfg = true → ∃ t, exec i s = .next t) ∧
    (∀ f, exec i s ≠ .fault f) ∧
    (∀ r, exec i s = .refused r → r = .illegalParameter ∧
      (i matches .setlayout _ | .rdvlc _ | .spec _ _ | .sf _ _ _))

/-- Each STATUS bit is set and cleared by the commands 10_state.md R43 names, and by no other. -/
def Obligations.FlagsChangeOnlyAsNamed : Prop :=
  ∀ (i : Instr) (s t : State), exec i s = .next t →
    t.status.herr = s.status.herr ∧
    (t.status.pcmv ≠ s.status.pcmv →
      ((i matches .fbegin _ _ _ _ _) ∧ t.status.pcmv = false) ∨
      (i = .fcommit ∧ s.status.ffail = false ∧ t.status.pcmv = true)) ∧
    (t.status.fopen ≠ s.status.fopen →
      ((i matches .fbegin _ _ _ _ _) ∧ t.status.fopen = true) ∨
      ((i = .fcommit ∨ i = .fabort) ∧ t.status.fopen = false)) ∧
    (t.status.ffail ≠ s.status.ffail →
      (t.status.ffail = true ∧ s.status.fopen = true ∧ t.status.err = true) ∨
      (t.status.ffail = false ∧ ((i matches .fbegin _ _ _ _ _) ∨ i = .fcommit ∨ i = .fabort))) ∧
    (s.status.done = true → t.status.done = true) ∧
    (s.status.err = true → t.status.err = true ∧ t.status.errcode = s.status.errcode) ∧
    (s.status.warn = true → t.status.warn = true ∧ t.status.warncode = s.status.warncode) ∧
    (s.status.warn = false → t.status.warn = false → t.status.warncode = s.status.warncode) ∧
    (s.status.warn = false → t.status.warn = true →
      ((i matches .fbegin _ _ _ _ _) ∧ t.status.warncode = 16) ∨
      ((i matches .arith _ _) ∧ t.status.warncode = 17)) ∧
    (s.status.gap = true → t.status.gap = true) ∧
    (s.status.gap = false → t.status.gap = true → (i matches .arith _ _))

/-- The interrupt line is the stated function of the STATUS and CTRL words the host reads (60_exceptions.md R388;
10_state.md R42, R43). -/
def Obligations.InterruptLine : Prop :=
  ∀ s : State, s.irq =
    ((s.status.toWord.getLsbD 3 && s.ctrl.toWord.getLsbD 1) || (s.status.toWord.getLsbD 4 && s.ctrl.toWord.getLsbD 2)
      || ((s.status.toWord.getLsbD 5 || s.status.toWord.getLsbD 6) && s.ctrl.toWord.getLsbD 3)
      || (s.status.toWord.getLsbD 7 && s.ctrl.toWord.getLsbD 4))

/-! ## What commands may touch -/

/-- No command writes ARG0 or ARG1, only a BitReader command writes RESULT, and a command that raises an error leaves
RESULT as it was (10_state.md R46). -/
def Obligations.OperandAndResultRegisters : Prop :=
  ∀ (i : Instr) (s t : State), exec i s = .next t →
    t.arg0 = s.arg0 ∧ t.arg1 = s.arg1 ∧
    (t.result ≠ s.result → (i matches .rdbits _ | .rdunary _ _ | .rdvlc _ | .rdesc _)) ∧
    (t.status.err = true → s.status.err = false → t.result = s.result)

/-- No command writes BSM or SIM, CMD, CTRL, HADDR or a parameter; PCM is written only by QMFS, TD only by IMDCT, QG only
by QMFA and ASPXASM, but for the loss of TD and QG at the two ends of a frame (10_state.md R61 to R65, R84; 20_memory.md
R107; 40_control.md R162). -/
def Obligations.MemoriesOnlyByNamedCommands : Prop :=
  ∀ (i : Instr) (s t : State), exec i s = .next t →
    hostSideKept s t ∧
    (t.pcm ≠ s.pcm → (i matches .qmfs _)) ∧
    (t.td ≠ s.td → (i matches .imdct _ | .fbegin _ _ _ _ _ | .fcommit | .fabort)) ∧
    (t.qg ≠ s.qg → (i matches .qmfa _ | .aspxasm _ | .fbegin _ _ _ _ _ | .fcommit | .fabort))

/-- The committed generation changes only by FCOMMIT of a frame that did not fail, which copies W, and by CHRESET of the
slot with no frame open (10_state.md R70, R79). -/
def Obligations.CommittedHistoryOnlyByCommit : Prop :=
  ∀ (i : Instr) (s t : State), exec i s = .next t → t.k ≠ s.k →
    (i = .fcommit ∧ s.status.fopen = true ∧ s.status.ffail = false ∧ t.k = s.w) ∨
    (∃ c : BitVec 4, i = .chreset c ∧ s.status.fopen = false ∧
      ∀ d : Fin 8, d.val ≠ c.toNat → t.kAt d = s.kAt d)

/-- A channel command writes W, F[c], PCM, QG and TD of the slots it names alone, in states that hold what FBEGIN and the
channel invariants fix (10_state.md R78). -/
def Obligations.CommandsKeepToTheirSlots : Prop :=
  ∀ (i : Instr) (s t : State), s.frameLegal → s.channelsLegal → exec i s = .next t →
    ¬(i matches .fbegin _ _ _ _ _ | .fcommit | .fabort) →
    ∀ d : Fin 8, (∀ c ∈ i.slots, c.toNat ≠ d.val) →
      t.wAt d = s.wAt d ∧ t.chanAt d = s.chanAt d ∧
      (∀ e < 2048, t.pcmElem (d.val * 2048 + e) = s.pcmElem (d.val * 2048 + e) ∧
        t.tdElem (d.val * 2048 + e) = s.tdElem (d.val * 2048 + e)) ∧
      (∀ e < 4096, t.qgElem (d.val * 4096 + e) = s.qgElem (d.val * 4096 + e))

/-- BITLEN, FCFG and SEQ are written only by FBEGIN, and no other command moves the cursor back (10_state.md R48 to R50;
41_bitreader.md R190). -/
def Obligations.CursorOnlyMovesForward : Prop :=
  ∀ (i : Instr) (s t : State), s.cursorLegal → exec i s = .next t → ¬(i matches .fbegin _ _ _ _ _) →
    t.bitlen = s.bitlen ∧ t.fcfg = s.fcfg ∧ t.seq = s.seq ∧ s.bitpos.toNat ≤ t.bitpos.toNat

/-- A command issued before a stage it needs, after its own stage, or with no frame open raises IllegalCommand: the
table of 70_reset_and_hazards.md R433. -/
def Obligations.StageOrderIsEnforced : Prop :=
  (∀ (s : State) (c g : BitVec 4) (i : Instr), s.running → c.toNat < 8 →
    (let x := slotOf c
     ((∃ n, i = .sect c g n) ∧ s.done x .layout = false) ∨
     (i = .arith c g ∧ s.done x .layout = false) ∨
     (i = .spec c g ∧ s.done x (.sect g.toFin) = false) ∨
     ((∃ p, i = .sf c g p) ∧
       (s.done x (.spec g.toFin) = false ∨ (g ≠ 0 ∧ s.done x (.sf (g - 1).toFin) = false))) ∨
     (i = .deq c g ∧ s.done x (.sf g.toFin) = false) ∨
     ((∃ c2, c2.toNat < 8 ∧ (i = .stereo c c2 ∨ i = .stereo c2 c)) ∧
       (s.allDequantized x = false ∨ s.done x .stereo = true ∨ s.done x .imdct = true)) ∨
     (i = .imdct c ∧ (s.allDequantized x = false ∨ s.done x .imdct = true)) ∨
     (i = .qmfa c ∧ (s.done x .imdct = false ∨ s.done x .qmfa = true)) ∨
     (i = .aspxcfg c ∧ (s.done x .qmfa = false ∨ s.done x .axcfg = true)) ∨
     (i = .aspxenv c ∧ (s.done x .axcfg = false ∨ s.done x .axenv = true)) ∨
     (i = .aspxhf c ∧ (s.done x .axenv = false ∨ s.done x .axhf = true)) ∨
     (i = .aspxgain c ∧ (s.done x .axhf = false ∨ s.done x .axgain = true)) ∨
     (i = .aspxgain c ∧ (s.simWord x Sim.axQmode = 0 ∨ s.simWord x Sim.axQmode = 1) ∧ s.simWord x Sim.axBalance = 1 ∧
       ∃ p : Fin 8, s.simWord x Sim.axPartner = p.val ∧ p ≠ x ∧ s.done p .axenv = false) ∨
     (i = .aspxasm c ∧ (s.done x .axgain = false ∨ s.done x .axasm = true)) ∨
     (i = .qmfs c ∧ (s.done x .qmfa = false ∨ s.done x .qmfs = true ∨
       (s.done x .axcfg = true ∧ s.done x .axasm = false))) ∨
     (i = .fcommit ∧ (s.chanAt x).done ≠ Done.empty ∧ s.done x .qmfs = false)) →
    exec i s = .next (s.failedWith 6)) ∧
  (∀ (s : State) (i : Instr), s.status.fopen = false → (∀ c ∈ i.slots, c.toNat < 8) →
    ¬(i matches .nop | .chreset _ | .fbegin _ _ _ _ _) → exec i s = .next (s.failedWith 6))

/-! ## Invariants -/

/-- Every step keeps every memory space in its canonical form (20_memory.md R100; the form is the model's own, log 3). -/
def Obligations.CanonicalMemoryKept : Prop := ∀ s t : State, s.canonical = true → step s = .next t → t.canonical = true

/-- BITPOS ≤ BITLEN after every step (10_state.md R48). -/
def Obligations.CursorStaysInRange : Prop := ∀ s t : State, s.cursorLegal → step s = .next t → t.cursorLegal

/-- Every step keeps STATUS, FCFG and SEQ legal: the codes are those of their flags, only an open frame has failed, the
reserved bits read 0 (60_exceptions.md R380 to R384; 10_state.md R49, R50).
That SEQ is 0 while SEQV = 0 is inferred from R50 and R163. -/
def Obligations.RegistersStayLegal : Prop :=
  ∀ s t : State, s.statusLegal = true → s.registersLegal = true → step s = .next t →
    t.statusLegal = true ∧ t.registersLegal = true

/-- Every step keeps the frame state legal: no frame-scoped field holds a value with no frame open, and an open frame has
a legal frameLengthBase, its timeslot count, and a byte range inside BSM (10_state.md R80, R84; 40_control.md R162).
F at its reset column outside a frame is the model's reading of 'no value' (log 13). -/
def Obligations.FrameStaysLegal : Prop := ∀ s t : State, s.frameLegal → step s = .next t → t.frameLegal

/-- Every step keeps both generations of every slot in the ranges of 10_state.md R71, R73 and R74, in states with a legal
frame. -/
def Obligations.ChannelsStayLegal : Prop :=
  ∀ s t : State, s.frameLegal → s.channelsLegal → step s = .next t → t.channelsLegal

/-- Every step keeps the subband-group tables legal: strictly increasing between sbgMaster[0] and 64, the patches at most
fed from below the crossover, contiguous from it on and inside the high band (10_state.md R76; 45_aspx_tables.md R302,
R308).
That the tables begin and end at sbx and sbTop is inferred from R301 to R305. -/
def Obligations.SubbandTablesStayLegal : Prop := ∀ s t : State, s.tablesLegal → step s = .next t → t.tablesLegal

/-- No step changes a parameter (00_scope.md R16; 70_reset_and_hazards.md R423). -/
def Obligations.ParametersNeverChange : Prop := ∀ s t : State, step s = .next t → t.cfg = s.cfg

/-- The reset state meets every invariant stated above. -/
def Obligations.ResetMeetsInvariants : Prop :=
  State.reset.canonical = true ∧ State.reset.cursorLegal ∧ State.reset.statusLegal = true ∧
    State.reset.registersLegal = true ∧ State.reset.frameLegal ∧ State.reset.channelsLegal ∧ State.reset.tablesLegal

/-! ## The host's side -/

/-- A write of CMD while BUSY = 0 issues the word and sets BUSY; a read returns the last word written; with nothing to do
CORE stays as it is (10_state.md R45; 60_exceptions.md R399).
That the command runs in the next step is the model's choice (log 2). -/
def Obligations.CmdWriteIssues : Prop :=
  (∀ (s : State) (v : Word) (b : Bool) (q : List HostAccess), s.status.busy = false →
    s.hostQ = ⟨0x0C, 4, some v, b⟩ :: q →
    step s = .next { s with hostQ := q, cmd := v, status := { s.status with busy := true } }) ∧
  (∀ (s : State) (b : Bool) (q : List HostAccess), s.status.busy = false → s.hostQ = ⟨0x0C, 4, none, b⟩ :: q →
    step s = .next { s with hostQ := q, rdata := s.cmd }) ∧
  (∀ s : State, s.status.busy = false → s.hostQ = [] → step s = .next s)

/-- What the host must not do has no step: a narrow or misaligned access, and while BUSY = 1 anything but a read of
STATUS or a write of CTRL, which do (70_reset_and_hazards.md R431; 20_memory.md R105, R111).
A fault is the model's form of 'no step' (log 15). -/
def Obligations.HostDuties : Prop :=
  ∀ (s : State) (a : HostAccess) (q : List HostAccess), s.hostQ = a :: q →
    ((s.status.busy = false ∨ a.whileBusy = true) → (a.size ≠ 4 ∨ a.offset % 4 ≠ 0) →
      step s = .fault .hostAccessNotAWord) ∧
    (s.status.busy = true → a.whileBusy = true → a.size = 4 → a.offset % 4 = 0 →
      (a.offset = 0x08 → a.write = none → step s = .next { s with hostQ := q, rdata := s.status.toWord }) ∧
      (∀ v : Word, a.offset = 0x04 → a.write = some v → v.getLsbD 0 = false →
        step s = .next { s with
          hostQ := q
          ctrl := ⟨v.getLsbD 1, v.getLsbD 2, v.getLsbD 3, v.getLsbD 4⟩ }) ∧
      (¬(a.offset = 0x08 ∧ a.write = none) → ¬(a.offset = 0x04 ∧ a.write.isSome = true) →
        step s = .fault .hostAccessWhileBusy))

/-- What each register reads as: the fields of CTRL and STATUS at their bits, 0 at a reserved offset; a read changes
nothing else (10_state.md R41 to R46, R52; 20_memory.md R107). -/
def Obligations.RegisterReads : Prop :=
  ∀ (s : State) (offset : Nat) (b : Bool) (q : List HostAccess), s.status.busy = false →
    s.hostQ = ⟨offset, 4, none, b⟩ :: q → offset % 4 = 0 → offset ≠ 0x30 →
    step s = .next { s with
      hostQ := q
      rdata :=
        match offset with
        | 0x00 => s.cfg.implId
        | 0x04 => BitVec.ofNat 32 (2 * s.ctrl.ieDone.toNat + 4 * s.ctrl.ieErr.toNat + 8 * s.ctrl.ieWarn.toNat
            + 16 * s.ctrl.ieHerr.toNat)
        | 0x08 => BitVec.ofNat 32 (s.status.busy.toNat + 2 * s.status.fopen.toNat + 4 * s.status.ffail.toNat
            + 8 * s.status.done.toNat + 16 * s.status.err.toNat + 32 * s.status.warn.toNat + 64 * s.status.gap.toNat
            + 128 * s.status.herr.toNat + 256 * s.status.errcode.toNat + 65536 * s.status.warncode.toNat
            + 16777216 * s.status.pcmv.toNat)
        | 0x0C => s.cmd
        | 0x10 => s.arg0
        | 0x14 => s.arg1
        | 0x18 => s.result
        | 0x1C => s.bitpos
        | 0x20 => s.bitlen
        | 0x24 => s.fcfg
        | 0x28 => s.seq
        | 0x2C => s.haddr
        | _ => 0 }

/-- What a write of each register does: ARG0, ARG1 and HADDR hold the word, CTRL its enable bits, STATUS loses the W1C
bits that are written 1, with ERRCODE and WARNCODE; a read-only or reserved offset keeps everything (10_state.md R41 to
R44, R46, R52). CMD and HDATA have their own statements. -/
def Obligations.RegisterWrites : Prop :=
  ∀ (s : State) (offset : Nat) (v : Word) (b : Bool) (q : List HostAccess), s.status.busy = false →
    s.hostQ = ⟨offset, 4, some v, b⟩ :: q → offset % 4 = 0 → offset ≠ 0x0C → offset ≠ 0x30 →
    ¬(offset = 0x04 ∧ v.getLsbD 0 = true) →
    ∃ t, step s = .next t ∧
      (offset = 0x04 → t = { s with
        hostQ := q
        ctrl := ⟨v.getLsbD 1, v.getLsbD 2, v.getLsbD 3, v.getLsbD 4⟩ }) ∧
      (offset = 0x08 → t = { s with
        hostQ := q
        status := { s.status with
          done := if v.getLsbD 3 then false else s.status.done
          err := if v.getLsbD 4 then false else s.status.err
          errcode := if v.getLsbD 4 then 0 else s.status.errcode
          warn := if v.getLsbD 5 then false else s.status.warn
          warncode := if v.getLsbD 5 then 0 else s.status.warncode
          gap := if v.getLsbD 6 then false else s.status.gap
          herr := if v.getLsbD 7 then false else s.status.herr } }) ∧
      (offset = 0x10 → t = { s with hostQ := q, arg0 := v }) ∧
      (offset = 0x14 → t = { s with hostQ := q, arg1 := v }) ∧
      (offset = 0x2C → t = { s with hostQ := q, haddr := v }) ∧
      (offset ∉ [0x04, 0x08, 0x10, 0x14, 0x2C] → t = { s with hostQ := q })

/-- An access of HDATA in range moves one element and advances HADDR[27:0]: a read returns the element in its word form
and changes nothing else, a write stores it and leaves every other element alone (10_state.md R51, R60; 20_memory.md
R100).
The canonical premise is the model's own (log 3). -/
def Obligations.HdataMovesOneElement : Prop :=
  ∀ (s : State) (space index : Nat) (b : Bool) (q : List HostAccess), s.status.busy = false → s.canonical = true →
    (space, index) = ((s.haddr.extractLsb' 28 4).toNat, (s.haddr.extractLsb' 0 28).toNat) → space < 5 →
    index < [16384, 32768, 16384, 32768, 16384].getD space 0 →
    (s.hostQ = ⟨0x30, 4, none, b⟩ :: q →
      step s = .next { s with
        hostQ := q
        haddr := BitVec.ofNat 32 (space * 2 ^ 28 + (index + 1) % 2 ^ 28)
        rdata := [(s.bsmByte index).setWidth 32, s.simElem index, s.pcmElem index, s.qgElem index,
          s.tdElem index].getD space 0 }) ∧
    (∀ v : Word, s.hostQ = ⟨0x30, 4, some v, b⟩ :: q → space ≠ 2 → space ≠ 4 →
      ∃ t, step s = .next t ∧
        t = { s with
          hostQ := q
          haddr := BitVec.ofNat 32 (space * 2 ^ 28 + (index + 1) % 2 ^ 28)
          bsm := t.bsm, sim := t.sim, qg := t.qg } ∧
        (∀ a, t.bsmByte a = if space = 0 ∧ a = index then v.setWidth 8 else s.bsmByte a) ∧
        (∀ a, t.simElem a = if space = 1 ∧ a = index then v else s.simElem a) ∧
        (∀ a, t.qgElem a = if space = 3 ∧ a = index then v else s.qgElem a))

/-- An out-of-range access of HDATA changes no memory, reads 0, sets HERR and advances HADDR; nothing else changes
(20_memory.md R104). -/
def Obligations.OutOfRangeHostAccess : Prop :=
  ∀ (s : State) (space index : Nat) (w : Option Word) (b : Bool) (q : List HostAccess), s.status.busy = false →
    (space, index) = ((s.haddr.extractLsb' 28 4).toNat, (s.haddr.extractLsb' 0 28).toNat) →
    s.hostQ = ⟨0x30, 4, w, b⟩ :: q →
    (5 ≤ space ∨ [16384, 32768, 16384, 32768, 16384].getD space 0 ≤ index ∨
      (w.isSome = true ∧ (space = 2 ∨ space = 4))) →
    step s = .next { s with
      hostQ := q
      haddr := BitVec.ofNat 32 (space * 2 ^ 28 + (index + 1) % 2 ^ 28)
      rdata := if w.isSome then s.rdata else 0
      status := { s.status with herr := true } }

/-- A block reset sets every register, K, W, F and F[c] to its reset value and leaves the memories as they are; after
power-on the same values hold and no memory element has a value (70_reset_and_hazards.md R420). -/
def Obligations.BlockReset : Prop :=
  (∀ (s : State) (v : Word) (b : Bool) (q : List HostAccess), s.status.busy = false →
    s.hostQ = ⟨0x04, 4, some v, b⟩ :: q → v.getLsbD 0 = true →
    ∃ t, step s = .next t ∧ atResetValues t ∧ t.cfg = s.cfg ∧ t.bsm = s.bsm ∧ t.sim = s.sim ∧ t.pcm = s.pcm ∧
      t.qg = s.qg ∧ t.td = s.td ∧ t.hostQ = q) ∧
  atResetValues State.reset ∧
  (∀ a, State.reset.bsm.get? a = none ∧ State.reset.sim.get? a = none ∧ State.reset.pcm.get? a = none ∧
    State.reset.qg.get? a = none ∧ State.reset.td.get? a = none)

/-- A block reset while a command executes abandons it: reset values everywhere, BSM and SIM kept, and of PCM, QG and TD
only elements the command may have written are not kept: the samples of QMFS, the windows of IMDCT whose coefficients are
all there, the rows of QMFA, the high band of those rows in ASPXASM, and for a command that begins or ends a frame all of
QG and TD (70_reset_and_hazards.md R421).
Which elements those are is the model's reading (log 16). -/
def Obligations.AbandonedCommand : Prop :=
  ∀ (s : State) (v : Word) (q : List HostAccess), s.status.busy = true →
    s.hostQ = ⟨0x04, 4, some v, true⟩ :: q → v.getLsbD 0 = true →
    let framing := ∃ i, decode s.cmd = .ok i ∧ (i matches .fbegin _ _ _ _ _ | .fcommit | .fabort)
    let pair (e : Nat) (c : BitVec 4) (ts k : Nat) := e = qgIndex (slotOf c).val ts k ∨ e = qgIndex (slotOf c).val ts k + 1
    ∃ t, step s = .next t ∧ atResetValues t ∧ t.cfg = s.cfg ∧ t.bsm = s.bsm ∧ t.sim = s.sim ∧ t.hostQ = q ∧
      (∀ e, t.pcmElem e ≠ s.pcmElem e → ∃ c n, decode s.cmd = .ok (.qmfs c) ∧ s.frame.numTs = some n ∧
        (slotOf c).val * 2048 ≤ e ∧ e < (slotOf c).val * 2048 + 64 * n) ∧
      (∀ e, t.tdElem e ≠ s.tdElem e →
        (∃ c, decode s.cmd = .ok (.imdct c) ∧ ∃ w ∈ (s.wAt (slotOf c)).wins,
          (slotOf c).val * 2048 + w.off ≤ e ∧ e < (slotOf c).val * 2048 + w.off + w.len ∧
          ∀ k, w.off ≤ k → k < w.off + w.len → (s.chanAt (slotOf c)).coef.at? k ≠ none) ∨ framing) ∧
      (∀ e, t.qgElem e ≠ s.qgElem e →
        (∃ c n ts k, decode s.cmd = .ok (.qmfa c) ∧ s.frame.numTs = some n ∧ ts < n ∧ k < 64 ∧ pair e c ts k) ∨
        (∃ c n ts k, decode s.cmd = .ok (.aspxasm c) ∧ s.frame.numTs = some n ∧ ts < n ∧
          (s.wAt (slotOf c)).sbx ≤ k ∧ k < (s.wAt (slotOf c)).sbTop ∧ pair e c ts k) ∨ framing)

/-! ## Control commands -/

/-- NOP sets DONE and changes nothing else, with or without an open frame and in a failed one (40_control.md R160). -/
def Obligations.NopOnlySetsDone : Prop :=
  ∀ s : State, exec .nop s = .next { s with status := { s.status with done := true, busy := false } }

/-- CHRESET gives the slot's working record its reset values, and with no frame open the committed one too; F[c], the
memories, every other slot and every register stay (40_control.md R161). -/
def Obligations.ChresetResetsOneSlot : Prop :=
  ∀ (s : State) (c : BitVec 4),
    (8 ≤ c.toNat → exec (.chreset c) s = .next (s.failedWith 6)) ∧
    (c.toNat < 8 →
      (s.status.fopen = true → s.status.ffail = true → exec (.chreset c) s = .next s.ended) ∧
      (¬(s.status.fopen = true ∧ s.status.ffail = true) →
        ∃ t, exec (.chreset c) s = .next t ∧ t = { s.ended with w := t.w, k := t.k } ∧
          ∀ d : Fin 8,
            (if d.val = c.toNat then (t.wAt d).atReset s.cfg.histTs else t.wAt d = s.wAt d) ∧
            (if d.val = c.toNat ∧ s.status.fopen = false then (t.kAt d).atReset s.cfg.histTs
              else t.kAt d = s.kAt d)))

/-- FBEGIN checks, in this order, that no frame is open, FLB_IDX, the byte range and the sequence counter, and then
opens the frame: every register, W, F, F[c], QG and the sequence check of R163 as the rules say (40_control.md R162,
R163).
SEQ_BITS and SEQ_MOD stand at their defaults (log 8). -/
def Obligations.FbeginOpensFrame : Prop :=
  ∀ (s : State) (f m : BitVec 4) (d : BitVec 2) (indep seqp : Bool),
    let base := (s.arg0.extractLsb' 0 16).toNat
    let n := (s.arg0.extractLsb' 16 16).toNat
    let len := s.arg1.toNat
    let flb := [384, 480, 512, 768, 960, 1024, 1536, 1920, 2048].getD f.toNat 0
    let gap := seqp = true ∧ s.seq.getLsbD 31 = true ∧ n ≠ ((s.seq.extractLsb' 0 10).toNat + 1) % 1024
    let ok := s.status.fopen = false ∧ f.toNat ≤ 8 ∧ base + len ≤ 16384 ∧ ¬(seqp = true ∧ 1024 ≤ n)
    (¬ok → exec (.fbegin f m d indep seqp) s = .next (s.failedWith 6)) ∧
    (ok → ∃ t, exec (.fbegin f m d indep seqp) s = .next t ∧ hostSideKept s t ∧
      t.result = s.result ∧ t.pcm = s.pcm ∧ t.k = s.k ∧ t.w = s.k ∧
      (∀ c, t.chanAt c = ChanFrame.empty) ∧
      t.frame = ⟨flb, if flb % 64 = 0 then some (flb / 64) else none, indep, base⟩ ∧
      t.bitpos = 0 ∧ t.bitlen.toNat = 8 * len ∧
      t.fcfg.toNat = f.toNat + 16 * m.toNat + 256 * d.toNat + 1024 * indep.toNat ∧
      (seqp = false → t.seq = s.seq) ∧ (seqp = true → t.seq.toNat = 2 ^ 31 + n) ∧
      (∀ e, t.qgElem e = 0) ∧ (∀ e, t.td.get? e = none) ∧
      (¬gap → t.status =
        { s.status with fopen := true, ffail := false, pcmv := false, done := true, busy := false }) ∧
      (gap → t.status =
        { s.status with
          fopen := true, ffail := false, pcmv := false, done := true, busy := false, warn := true
          warncode := if s.status.warn then s.status.warncode else 16 }))

/-- FCOMMIT of a frame that did not fail needs every started pipeline finished, copies W to K and sets PCMV; of a failed
frame it keeps K; either way the frame ends and every frame-scoped field loses its value (40_control.md R164). -/
def Obligations.FcommitEndsFrame : Prop :=
  ∀ s : State,
    (s.status.fopen = false → exec .fcommit s = .next (s.failedWith 6)) ∧
    (s.running → (∃ c, (s.chanAt c).done ≠ Done.empty ∧ s.done c .qmfs = false) →
      exec .fcommit s = .next (s.failedWith 6)) ∧
    (s.status.fopen = true →
      (s.status.ffail = true ∨ ∀ c, (s.chanAt c).done = Done.empty ∨ s.done c .qmfs = true) →
      ∃ t, exec .fcommit s = .next t ∧ hostSideKept s t ∧
        t.result = s.result ∧ t.bitpos = s.bitpos ∧ t.bitlen = s.bitlen ∧ t.fcfg = s.fcfg ∧ t.seq = s.seq ∧
        t.pcm = s.pcm ∧ t.w = s.w ∧ t.k = (if s.status.ffail then s.k else s.w) ∧
        (∀ c, t.chanAt c = ChanFrame.empty) ∧ (∀ e, t.qg.get? e = none ∧ t.td.get? e = none) ∧
        t.status = { s.status with
          fopen := false, ffail := false, done := true, busy := false
          pcmv := if s.status.ffail then s.status.pcmv else true })

/-- FABORT ends the frame, failed or not, and keeps K; every frame-scoped field loses its value (40_control.md R165). -/
def Obligations.FabortEndsFrame : Prop :=
  ∀ s : State,
    (s.status.fopen = false → exec .fabort s = .next (s.failedWith 6)) ∧
    (s.status.fopen = true →
      ∃ t, exec .fabort s = .next t ∧ hostSideKept s t ∧
        t.result = s.result ∧ t.bitpos = s.bitpos ∧ t.bitlen = s.bitlen ∧ t.fcfg = s.fcfg ∧ t.seq = s.seq ∧
        t.pcm = s.pcm ∧ t.w = s.w ∧ t.k = s.k ∧
        (∀ c, t.chanAt c = ChanFrame.empty) ∧ (∀ e, t.qg.get? e = none ∧ t.td.get? e = none) ∧
        t.status = { s.status with fopen := false, ffail := false, done := true, busy := false })

/-- SETLAYOUT writes the layout of SIM[c] to W[c] if it passes every check, with the windows in order and each sample's
(group, band), and raises InvalidBlockConfig if it does not, for SFB_OFFSETS lists that are legal (40_control.md R166,
R167).
TLEN_TABLE and MAX_SFB stand at their defaults (log 8); other lists are refused (log 14). -/
def Obligations.SetlayoutLoadsLayout : Prop :=
  ∀ (s : State) (c : BitVec 4), s.running → c.toNat < 8 →
    (∀ n ∈ tlenTable s.frame.flb, sfbLegal (s.cfg.sfb s.frame.flb n) n = true) →
    let x := slotOf c
    (¬s.layoutLegal x → exec (.setlayout c) s = .next (s.failedWith 4)) ∧
    (s.layoutLegal x → ∃ t, exec (.setlayout c) s = .next t ∧ endsOn [x] s t ∧ gridsKept s t ∧ t.bitpos = s.bitpos ∧
      t.chanAt x = { s.chanAt x with done := (t.chanAt x).done } ∧
      doneAdds .layout (s.chanAt x).done (t.chanAt x).done ∧
      (let y := t.wAt x
       let groups := (s.simWord x Sim.wlNgroups).toNat
       y = { s.wAt x with
        ngroups := groups, nwin := y.nwin, tlen := y.tlen, maxSfb := y.maxSfb, wins := y.wins, smap := y.smap } ∧
       (∀ g : Fin 16,
        (y.nwin.get g : Int) = (if g.val < groups then s.wlNwin x g else 0) ∧
        (y.tlen.get g : Int) = (if g.val < groups then s.wlTlen x g else 0) ∧
        (y.maxSfb.get g : Int) = (if g.val < groups then s.wlMaxsfb x g else 0)) ∧
       y.wins = (List.range groups).flatMap (fun g => (List.range (y.nwin.toList.getD g 0)).map (fun w =>
        ⟨(s.wlStart x g).toNat + w * (s.wlTlen x g).toNat, (s.wlTlen x g).toNat, g⟩)) ∧
       (∀ (k g b : Nat), y.mapAt k = some (g, b) ↔ ∃ w ∈ y.wins, w.grp = g ∧ (b : Int) < s.wlMaxsfb x g ∧ w.off ≤ k ∧
        (s.cfg.sfb s.frame.flb w.len).getD b 0 ≤ k - w.off ∧
        k - w.off < (s.cfg.sfb s.frame.flb w.len).getD (b + 1) 0)))

/-! ## BitReader commands -/

/-- RDBITS reads NBITS bits, the first the most significant, into RESULT and moves the cursor behind them; NBITS above 32
raises IllegalCommand, a field past BITLEN raises Truncated with nothing consumed (41_bitreader.md R191, R195;
20_memory.md R101). -/
def Obligations.RdbitsReadsField : Prop :=
  ∀ (s : State) (n : BitVec 6), s.cursorLegal →
    (s.status.fopen = false → exec (.rdbits n) s = .next (s.failedWith 6)) ∧
    (s.running → 32 < n.toNat → exec (.rdbits n) s = .next (s.failedWith 6)) ∧
    (s.running → n.toNat ≤ 32 → s.bitlen.toNat < s.bitpos.toNat + n.toNat →
      exec (.rdbits n) s = .next (s.failedWith 1)) ∧
    (s.running → n.toNat ≤ 32 → s.bitpos.toNat + n.toNat ≤ s.bitlen.toNat →
      exec (.rdbits n) s = .next { s.ended with
        result := BitVec.ofNat 32 (s.fieldAt s.bitpos.toNat n.toNat)
        bitpos := BitVec.ofNat 32 (s.bitpos.toNat + n.toNat) } ∧
      s.fieldAt s.bitpos.toNat n.toNat < 2 ^ n.toNat)

/-- RDUNARY counts the bits before the first one equal to STOP, which it consumes, and reads no bit past MAXLEN; a range
that ends first raises Truncated (41_bitreader.md R192, R196). -/
def Obligations.RdunaryCounts : Prop :=
  ∀ (s : State) (stop : Bool) (maxLen : BitVec 16), s.cursorLegal →
    let p := s.bitpos.toNat
    (s.status.fopen = false → exec (.rdunary stop maxLen) s = .next (s.failedWith 6)) ∧
    (∀ k < maxLen.toNat, s.running → (∀ j < k, s.bitAt (p + j) = !stop) → p + k < s.bitlen.toNat →
      s.bitAt (p + k) = stop →
      exec (.rdunary stop maxLen) s =
        .next { s.ended with result := BitVec.ofNat 32 k, bitpos := BitVec.ofNat 32 (p + k + 1) }) ∧
    (s.running → (∀ j < maxLen.toNat, s.bitAt (p + j) = !stop) → p + maxLen.toNat ≤ s.bitlen.toNat →
      exec (.rdunary stop maxLen) s =
        .next { s.ended with
          result := BitVec.ofNat 32 maxLen.toNat
          bitpos := BitVec.ofNat 32 (p + maxLen.toNat) }) ∧
    (∀ k < maxLen.toNat, s.running → (∀ j < k, s.bitAt (p + j) = !stop) → p + k = s.bitlen.toNat →
      exec (.rdunary stop maxLen) s = .next (s.failedWith 1))

/-- RDVLC answers the symbol of the codeword that lies at the cursor and consumes it; an undefined table raises
IllegalCommand, bits that are no prefix of a codeword raise MalformedCode, a range that ends inside a codeword raises
Truncated, for a legal table (41_bitreader.md R193, R197). -/
def Obligations.RdvlcDecodesCodeword : Prop :=
  ∀ (s : State) (t : BitVec 8), s.cursorLegal →
    let p := s.bitpos.toNat
    (s.status.fopen = false → exec (.rdvlc t) s = .next (s.failedWith 6)) ∧
    (s.running → s.cfg.vlcTable t.toNat = none → exec (.rdvlc t) s = .next (s.failedWith 6)) ∧
    (∀ tab, s.running → s.cfg.vlcTable t.toNat = some tab → vlcLegal tab = true →
      (∀ e ∈ tab, s.holdsBits p (codeBits e) →
        exec (.rdvlc t) s = .next { s.ended with
          result := BitVec.ofNat 32 e.sym
          bitpos := BitVec.ofNat 32 (p + e.len) }) ∧
      (∀ n, 1 ≤ n → p + n ≤ s.bitlen.toNat → (∀ e ∈ tab, e.len ≤ n → ¬s.holdsBits p (codeBits e)) →
        (∀ e ∈ tab, n ≤ e.len → ¬s.holdsBits p ((codeBits e).take n)) →
        exec (.rdvlc t) s = .next (s.failedWith 2)) ∧
      (s.bitlen.toNat = p → exec (.rdvlc t) s = .next (s.failedWith 1)) ∧
      (∀ e ∈ tab, s.bitlen.toNat < p + e.len → s.holdsBits p ((codeBits e).take (s.bitlen.toNat - p)) →
        exec (.rdvlc t) s = .next (s.failedWith 1)))

/-- RDESC answers the value of the chunks at the cursor, each followed by its continuation flag, if it is at most ARG0; a
value above ARG0, be it after a chunk or after an extension, raises OutOfRange, a range that ends first raises Truncated,
a BASE outside 1..16 raises IllegalCommand (41_bitreader.md R194, R198). -/
def Obligations.RdescReadsEscapedInteger : Prop :=
  ∀ (s : State) (base : BitVec 5), s.cursorLegal →
    let p := s.bitpos.toNat
    let b := base.toNat
    let max := s.arg0.toNat
    (s.status.fopen = false → exec (.rdesc base) s = .next (s.failedWith 6)) ∧
    (s.running → (b < 1 ∨ 16 < b) → exec (.rdesc base) s = .next (s.failedWith 6)) ∧
    (∀ (l : List Nat) (c : Nat), s.running → 1 ≤ b → b ≤ 16 → (∀ x ∈ l, x < 2 ^ b) → c < 2 ^ b →
      (s.holdsBits p (escBits b l ++ (bitsOf c b ++ [false])) → escAfter b l + c ≤ max →
        exec (.rdesc base) s = .next { s.ended with
          result := BitVec.ofNat 32 (escAfter b l + c)
          bitpos := BitVec.ofNat 32 (p + (l.length + 1) * (b + 1)) }) ∧
      (s.holdsBits p (escBits b l ++ bitsOf c b) → escAfter b l ≤ max → max < escAfter b l + c →
        exec (.rdesc base) s = .next (s.failedWith 3)) ∧
      (s.holdsBits p (escBits b (l ++ [c])) → escAfter b l + c ≤ max → max < escAfter b (l ++ [c]) →
        exec (.rdesc base) s = .next (s.failedWith 3)) ∧
      (s.holdsBits p (escBits b l) → escAfter b l ≤ max → s.bitlen.toNat < p + l.length * (b + 1) + b →
        exec (.rdesc base) s = .next (s.failedWith 1)) ∧
      (s.holdsBits p (escBits b l ++ bitsOf c b) → escAfter b l + c ≤ max →
        s.bitlen.toNat = p + l.length * (b + 1) + b → exec (.rdesc base) s = .next (s.failedWith 1)))

/-! ## Spectral front end -/

/-- SECT reads the sections of a group, 4 bits of codebook and a run of LENBITS-bit chunks each, until they cover its
bands, and gives each band its section's codebook; an undefined codebook or a section past the last band raises
InvalidBlockConfig, a range that ends first Truncated, LENBITS = 0 or a group that is not there IllegalCommand
(42_spectral.md R210, R211).
CB_BITS and CB_DESC stand at their defaults (log 8). -/
def Obligations.SectReadsSections : Prop :=
  ∀ (s : State) (c g w : BitVec 4) (secs : List (Nat × Nat)), s.running → c.toNat < 8 →
    let x := slotOf c
    let p := s.bitpos.toNat
    let ms := (s.wAt x).bands g.toNat
    let total := (secs.map Prod.snd).sum
    let bits := sectionBits w.toNat secs
    ((s.wAt x).ngroups ≤ g.toNat → exec (.sect c g w) s = .next (s.failedWith 6)) ∧
    (w = 0 → exec (.sect c g w) s = .next (s.failedWith 6)) ∧
    (g.toNat < (s.wAt x).ngroups → s.done x .layout = true → w ≠ 0 → ms ≤ 64 → s.cursorLegal →
      (∀ e ∈ secs, e.1 = 0 ∨ (cbDesc e.1).isSome = true) →
      (s.holdsBits p bits → total = ms → (∀ e ∈ secs.getLast?, 0 < e.2) →
        ∃ t, exec (.sect c g w) s = .next t ∧ endsOn [x] s t ∧ gridsKept s t ∧ t.wAt x = s.wAt x ∧
          t.bitpos.toNat = p + bits.length ∧
          t.chanAt x = { s.chanAt x with cb := (t.chanAt x).cb, done := (t.chanAt x).done } ∧
          doneAdds (.sect g.toFin) (s.chanAt x).done (t.chanAt x).done ∧
          (∀ k < ms, (t.chanAt x).cb.at? (64 * g.toNat + k) = (secs.flatMap (fun e => List.replicate e.2 e.1))[k]?) ∧
          (s.chanAt x).cb.sameBut (fun i => 64 * g.toNat ≤ i ∧ i < 64 * g.toNat + ms) (t.chanAt x).cb) ∧
      (total < ms → ∀ cb < 16,
        (s.holdsBits p (bits ++ bitsOf cb 4) → cb ≠ 0 → cbDesc cb = none →
          exec (.sect c g w) s = .next (s.failedWith 4)) ∧
        (∀ len, s.holdsBits p (bits ++ sectionBits w.toNat [(cb, len)]) → (cb = 0 ∨ (cbDesc cb).isSome = true) →
          ms < total + len → exec (.sect c g w) s = .next (s.failedWith 4)) ∧
        (s.holdsBits p bits → s.bitlen.toNat < p + bits.length + 4 →
          exec (.sect c g w) s = .next (s.failedWith 1)) ∧
        (∀ j, s.holdsBits p (bits ++ (bitsOf cb 4 ++ List.replicate (w.toNat * j) true)) →
          (cb = 0 ∨ (cbDesc cb).isSome = true) →
          s.bitlen.toNat < p + bits.length + 4 + w.toNat * j + w.toNat →
          exec (.sect c g w) s = .next (s.failedWith 1))))

/-- DecodeTuple reads the tuple that a codeword, its sign bits and its escapes spell under a codebook of the table; a
range that ends inside it raises Truncated, an escape with nine ones OutOfRange, a symbol outside the codebook's range
MalformedCode (42_spectral.md R215, R216).
CB_DESC stands at its default (log 8). -/
def Obligations.TuplesDecodeAsSpelled : Prop :=
  ∀ (s : State) (d : CbDesc) (cb table p : Nat) (tab : List VlcEntry) (e : VlcEntry) (v : List Int),
    cbDesc cb = some d → s.cfg.vlcTable table = some tab → vlcLegal tab = true → e ∈ tab →
    (CbDesc.codes d v = true → e.sym = undigits (CbDesc.base d) (CbDesc.digitsOf d v) →
      (s.holdsBits p (tupleBits d e v) → decodeTuple s d table p = .ok (v, p + (tupleBits d e v).length)) ∧
      (∀ k < (tupleBits d e v).length, s.bitlen.toNat = p + k → s.holdsBits p ((tupleBits d e v).take k) →
        decodeTuple s d table p = .error (.fatal .truncated)) ∧
      (∀ pre x post, v = pre ++ x :: post → d.esc = true → 16 ≤ x.natAbs →
        s.holdsBits p (codeBits e ++ (signBits v ++
          ((pre.filter (fun y => decide (16 ≤ y.natAbs))).flatMap escapeBits ++ List.replicate 9 true))) →
        decodeTuple s d table p = .error (.fatal .outOfRange))) ∧
    (s.holdsBits p (codeBits e) → CbDesc.base d ^ d.dim ≤ e.sym →
      decodeTuple s d table p = .error (.fatal .malformedCode))

/-- SPEC reads the runs of bands with equal codebooks in band order: a run of codebook 0 gives its samples 0 and reads
nothing, another one gives them the values of its tuples in order. Every other sample of the group's windows gets 0, and
every band its greatest magnitude. A run whose sample count is no multiple of dim raises InvalidBlockConfig, an error of a
tuple is the command's error, and a band without a codebook raises IllegalCommand (42_spectral.md R214, R217; 10_state.md
R83).
What one tuple spells is TuplesDecodeAsSpelled; that a missing codebook is met when its run begins is the model's reading
(log 21). -/
def Obligations.SpecReadsCoefficients : Prop :=
  ∀ (s : State) (c g : BitVec 4) (runs : List (Nat × Nat × List Int)) (p : Nat), s.running → c.toNat < 8 → s.cursorLegal →
    let x := slotOf c
    let y := s.wAt x
    let f := s.chanAt x
    let ms := y.bands g.toNat
    let total := (runBooks runs).length
    let secs := runSections y g.toNat 0 runs
    let book (b : Nat) := f.cb.at? (64 * g.toNat + b)
    g.toNat < y.ngroups → s.done x (.sect g.toFin) = true → ms ≤ 64 → total ≤ ms →
    (∀ w ∈ y.wins, w.off + w.len ≤ 2048) →
    (∀ r ∈ runs, 0 < r.2.1) → runs.IsChain (fun a b => a.1 ≠ b.1) → (∀ b < total, book b = (runBooks runs)[b]?) →
    s.readsSections s.bitpos.toNat secs p →
    (total = ms →
      ∃ t, exec (.spec c g) s = .next t ∧ endsOn [x] s t ∧ gridsKept s t ∧ t.wAt x = y ∧ t.bitpos.toNat = p ∧
        t.chanAt x = { f with
          q := (t.chanAt x).q, maxMag := (t.chanAt x).maxMag, done := (t.chanAt x).done } ∧
        doneAdds (.spec g.toFin) f.done (t.chanAt x).done ∧
        (∀ e ∈ secs, ∀ i < e.2.1.length, ∃ v, e.2.2[i]? = some v ∧ (t.chanAt x).q.at? (e.2.1.getD i 0) = some v) ∧
        (∀ k ∈ y.groupSamples g.toNat, y.mapAt k = none → (t.chanAt x).q.at? k = some 0) ∧
        f.q.sameBut (fun k => (∃ b < ms, y.mapAt k = some (g.toNat, b)) ∨
          (k ∈ y.groupSamples g.toNat ∧ y.mapAt k = none)) (t.chanAt x).q ∧
        (∀ b < ms, (t.chanAt x).maxMag.at? (64 * g.toNat + b) =
          some ((y.samples g.toNat b).foldl (fun m k => max m (((t.chanAt x).q.at? k).getD 0).natAbs) 0)) ∧
        f.maxMag.sameBut (fun i => 64 * g.toNat ≤ i ∧ i < 64 * g.toNat + ms) (t.chanAt x).maxMag) ∧
    (total < ms → (∀ r ∈ runs.getLast?, book total ≠ some r.1) →
      (book total = none → exec (.spec c g) s = .next (s.failedWith 6)) ∧
      (∀ cb d n, 0 < n → total + n ≤ ms → cb ≠ 0 → cbDesc cb = some d → (∀ b < n, book (total + b) = some cb) →
        (total + n = ms ∨ book (total + n) ≠ some cb) →
        let count := ((List.range' total n).flatMap (y.samples g.toNat)).length
        (count % d.dim ≠ 0 → exec (.spec c g) s = .next (s.failedWith 4)) ∧
        (∀ tuples q e, count % d.dim = 0 → tuples.length < count / d.dim →
          s.readsTuples d (atD s.cfg.cbTable cb 0) p tuples q →
          decodeTuple s d (atD s.cfg.cbTable cb 0) q = .error (.fatal e) →
          exec (.spec c g) s = .next (s.failedWith e.code))))

/-- SF gives each band with a codebook and a magnitude a scale factor, the first absolute in 8 bits and each later one a
difference, and each other band no scale factor and, with SNFP, a noise-fill value; one accumulator runs on from group to
group. Band by band, a scale factor outside 0..255 raises OutOfRange, a range that ends inside a value Truncated, bits
that are no codeword MalformedCode, an undefined table and a band without a codebook or a magnitude IllegalCommand
(42_spectral.md R218; 10_state.md R83).
Widths, offset and bound stand at their defaults (log 8); `and` looks at the magnitude only after the codebook (log 21). -/
def Obligations.SfAccumulates : Prop :=
  ∀ (s : State) (c g : BitVec 4) (snfp : Bool) (start : SfAcc) (items : List (Bool × VlcEntry)),
    s.running → c.toNat < 8 → s.cursorLegal → parametersLegal s.cfg = true →
    let x := slotOf c
    let f := s.chanAt x
    let ms := (s.wAt x).bands g.toNat
    let tab := (s.cfg.vlcTable s.cfg.sfTable).getD []
    let noise := (s.cfg.vlcTable s.cfg.snfTable).getD []
    g.toNat < (s.wAt x).ngroups → s.done x (.spec g.toFin) = true →
    (g ≠ 0 → s.done x (.sf (g - 1).toFin) = true) → ms ≤ 64 → items.length ≤ ms →
    (∀ (b : Nat) (h : b < items.length), f.scaled g.toNat b items[b].1) →
    (g = 0 → start = ⟨true, 0, s.cfg.snfInit⟩) →
    (g ≠ 0 → f.sfFirst = some start.first ∧ f.sfAcc = some start.acc ∧ f.snfAcc = some start.snf) →
    let vals := sfValues snfp start items
    let bits := sfBits snfp start.first items
    let p := s.bitpos.toNat + bits.length
    sfReadable tab noise snfp start.first items → s.holdsBits s.bitpos.toNat bits →
    (∀ e ∈ vals.1, ∀ v, e.1 = some v → 0 ≤ v ∧ v ≤ 255) →
    (items.length = ms →
      ∃ t, exec (.sf c g snfp) s = .next t ∧ endsOn [x] s t ∧ gridsKept s t ∧ t.wAt x = s.wAt x ∧
        t.bitpos.toNat = p ∧
        t.chanAt x = { f with
          sf := (t.chanAt x).sf, snf := (t.chanAt x).snf, sfFirst := some vals.2.first, sfAcc := some vals.2.acc
          snfAcc := some vals.2.snf, done := (t.chanAt x).done } ∧
        doneAdds (.sf g.toFin) f.done (t.chanAt x).done ∧
        (∀ (b : Nat) (h : b < vals.1.length), (t.chanAt x).sf.at? (64 * g.toNat + b) = some vals.1[b].1 ∧
          (t.chanAt x).snf.at? (64 * g.toNat + b) = some vals.1[b].2) ∧ vals.1.length = ms ∧
        f.sf.sameBut (fun i => 64 * g.toNat ≤ i ∧ i < 64 * g.toNat + ms) (t.chanAt x).sf ∧
        f.snf.sameBut (fun i => 64 * g.toNat ≤ i ∧ i < 64 * g.toNat + ms) (t.chanAt x).snf) ∧
    (items.length < ms →
      let b := items.length
      ((∀ explicit, ¬f.scaled g.toNat b explicit) → exec (.sf c g snfp) s = .next (s.failedWith 6)) ∧
      (f.scaled g.toNat b true → vals.2.first = true → s.bitlen.toNat < p + 8 →
        exec (.sf c g snfp) s = .next (s.failedWith 1)) ∧
      (f.scaled g.toNat b true → vals.2.first = false → ∀ e ∈ tab, s.holdsBits p (codeBits e) →
        (vals.2.acc + e.sym - 60 < 0 ∨ 255 < vals.2.acc + e.sym - 60) →
        exec (.sf c g snfp) s = .next (s.failedWith 3)) ∧
      (∀ id, (f.scaled g.toNat b true ∧ vals.2.first = false ∧ id = s.cfg.sfTable ∨
          f.scaled g.toNat b false ∧ snfp = true ∧ id = s.cfg.snfTable) →
        (s.cfg.vlcTable id = none → exec (.sf c g snfp) s = .next (s.failedWith 6)) ∧
        (∀ t, s.cfg.vlcTable id = some t →
          (s.malformedAt t p → exec (.sf c g snfp) s = .next (s.failedWith 2)) ∧
          (s.truncatedAt t p → exec (.sf c g snfp) s = .next (s.failedWith 1)))))

/-- ARITH skips ARG0 bits, silences the group, and warns: WARN, GAP, and WARNCODE 17 if WARN was 0; a payload past BITLEN
raises Truncated, a missing layout or group IllegalCommand (42_spectral.md R222). -/
def Obligations.ArithSkipsAndSilences : Prop :=
  ∀ (s : State) (c g : BitVec 4), s.running → c.toNat < 8 →
    let x := slotOf c
    let y := s.wAt x
    let f := s.chanAt x
    let ms := y.bands g.toNat
    ((y.ngroups ≤ g.toNat ∨ s.done x .layout = false) → exec (.arith c g) s = .next (s.failedWith 6)) ∧
    (g.toNat < y.ngroups → s.done x .layout = true → s.bitlen.toNat < s.bitpos.toNat + s.arg0.toNat →
      exec (.arith c g) s = .next (s.failedWith 1)) ∧
    (g.toNat < y.ngroups → s.done x .layout = true → s.bitpos.toNat + s.arg0.toNat ≤ s.bitlen.toNat → ms ≤ 64 →
      (∀ w ∈ y.wins, w.off + w.len ≤ 2048) →
      ∃ t, exec (.arith c g) s = .next t ∧ channelFrame [x] s t ∧ gridsKept s t ∧ t.wAt x = y ∧
        t.status = { s.status with
          done := true, busy := false, warn := true, gap := true
          warncode := if s.status.warn then s.status.warncode else 17 } ∧
        t.bitpos.toNat = s.bitpos.toNat + s.arg0.toNat ∧
        t.chanAt x = { f with
          cb := (t.chanAt x).cb, maxMag := (t.chanAt x).maxMag, q := (t.chanAt x).q, done := (t.chanAt x).done } ∧
        (∀ z, (t.chanAt x).done.has z = (f.done.has z || decide (z = .sect g.toFin) || decide (z = .spec g.toFin))) ∧
        (∀ i, (t.chanAt x).cb.at? i = if 64 * g.toNat ≤ i ∧ i < 64 * g.toNat + ms then some 0 else f.cb.at? i) ∧
        (∀ i, (t.chanAt x).maxMag.at? i =
          if 64 * g.toNat ≤ i ∧ i < 64 * g.toNat + ms then some 0 else f.maxMag.at? i) ∧
        (∀ k, (t.chanAt x).q.at? k = if k ∈ y.groupSamples g.toNat then some 0 else f.q.at? k))

/-- DEQ gives every sample of the group's windows its coefficient: 0 with no band or no scale factor, else
DEQUANT(|q|) × 2^(0.25·(sf − 100)), negated for a negative q (42_spectral.md R219, R226, R227).
R is binary32 (log 5), DEQUANT its default (log 8). -/
def Obligations.DeqScalesCoefficients : Prop :=
  ∀ (s : State) (c g : BitVec 4), s.running → c.toNat < 8 →
    let x := slotOf c
    let y := s.wAt x
    let f := s.chanAt x
    g.toNat < y.ngroups → s.done x (.sf g.toFin) = true → (∀ w ∈ y.wins, w.off + w.len ≤ 2048) →
    (∀ k ∈ y.groupSamples g.toNat, ∀ h b, y.mapAt k = some (h, b) →
      f.sf.at? (64 * h + b) = some none ∨
      ((∃ v, f.sf.at? (64 * h + b) = some (some v)) ∧ ∃ q, f.q.at? k = some q)) →
    ∃ t, exec (.deq c g) s = .next t ∧ endsOn [x] s t ∧ gridsKept s t ∧ t.wAt x = y ∧ t.bitpos = s.bitpos ∧
      t.chanAt x = { f with coef := (t.chanAt x).coef, done := (t.chanAt x).done } ∧
      doneAdds (.deq g.toFin) f.done (t.chanAt x).done ∧
      (∀ k, k ∉ y.groupSamples g.toNat → (t.chanAt x).coef.at? k = f.coef.at? k) ∧
      (∀ k ∈ y.groupSamples g.toNat,
        (y.mapAt k = none → (t.chanAt x).coef.at? k = some 0) ∧
        (∀ h b, y.mapAt k = some (h, b) →
          (f.sf.at? (64 * h + b) = some none → (t.chanAt x).coef.at? k = some 0) ∧
          (∀ v q, f.sf.at? (64 * h + b) = some (some v) → f.q.at? k = some q →
            (t.chanAt x).coef.at? k =
              (let mag := R32.mul (Tables.dequant q.natAbs) (R32.pow2 (R32.mul (R32.ofRat 1 4) (R32.ofInt (v - 100))))
               some (if q < 0 then R32.neg mag else mag)))))

/-! ## Stereo and transform -/

/-- STEREO applies the matrix of the mode, the flag or the running alpha of each band to both channels' coefficients of
its samples, both results from the old values, and leaves every other coefficient; equal slots raise IllegalCommand,
differing layouts and a bad mode InvalidBlockConfig, and of the bands in order the first with a bad flag or symbol raises
InvalidBlockConfig, the first with a missing coefficient IllegalCommand (43_stereo_imdct.md R250 to R253; 10_state.md
R83).
R is binary32 (log 5); that a symbol of mode 3 is read when its band's turn comes is the model's reading (log 21). -/
def Obligations.StereoAppliesMatrix : Prop :=
  ∀ (s : State) (c c2 : BitVec 4), s.running → c.toNat < 8 → c2.toNat < 8 →
    let x := slotOf c
    let x2 := slotOf c2
    let y := s.wAt x
    let mode := s.simWord x Sim.stMode
    let ready (z : Fin 8) := s.allDequantized z = true ∧ s.done z .stereo = false ∧ s.done z .imdct = false
    let agree := y.ngroups = (s.wAt x2).ngroups ∧ y.wins = (s.wAt x2).wins ∧
      ∀ g < y.ngroups, y.bands g = (s.wAt x2).bands g
    let fine (g b : Nat) := ¬s.stereoBad x g b ∧ ¬s.stereoMissing x x2 g b
    let matrixAt (k : Nat) (alpha : Real32) := k < 2048 ∧ ∃ g b, y.mapAt k = some (g, b) ∧ g < y.ngroups ∧
      b < y.bands g ∧ s.stereoChoice x g b = some alpha
    (c = c2 → exec (.stereo c c2) s = .next (s.failedWith 6)) ∧
    (c ≠ c2 → ready x → ready x2 →
      (¬agree ∨ mode < 0 ∨ 3 < mode → exec (.stereo c c2) s = .next (s.failedWith 4)) ∧
      (agree → 0 ≤ mode → mode ≤ 3 →
        (∀ g < y.ngroups, ∀ b < y.bands g, (∀ h ≤ g, ∀ k < y.bands h, (h < g ∨ k < b) → fine h k) →
          (s.stereoBad x g b → exec (.stereo c c2) s = .next (s.failedWith 4)) ∧
          (¬s.stereoBad x g b → s.stereoMissing x x2 g b → exec (.stereo c c2) s = .next (s.failedWith 6))) ∧
        ((∀ g < y.ngroups, ∀ b < y.bands g, fine g b) →
          ∃ t, exec (.stereo c c2) s = .next t ∧ endsOn [x, x2] s t ∧ gridsKept s t ∧ t.bitpos = s.bitpos ∧
            (∀ z ∈ [x, x2], t.wAt z = s.wAt z ∧
              t.chanAt z = { s.chanAt z with coef := (t.chanAt z).coef, done := (t.chanAt z).done } ∧
              doneAdds .stereo (s.chanAt z).done (t.chanAt z).done) ∧
            (∀ k alpha, matrixAt k alpha → ∃ a d, (s.chanAt x).coef.at? k = some a ∧ (s.chanAt x2).coef.at? k = some d ∧
              (t.chanAt x).coef.at? k = some (R32.add (R32.mul (R32.add (R32.ofInt 1) alpha) a) d) ∧
              (t.chanAt x2).coef.at? k = some (R32.sub (R32.mul (R32.sub (R32.ofInt 1) alpha) a) d)) ∧
            (∀ k, (¬∃ alpha, matrixAt k alpha) → (t.chanAt x).coef.at? k = (s.chanAt x).coef.at? k ∧
              (t.chanAt x2).coef.at? k = (s.chanAt x2).coef.at? k))))

/-- One window of IMDCT: the transform of its coefficients, the old tail added under its falling window and the new first
half under its rising one, both centred on flb/2, N samples emitted and the line moved on by N, the second half kept as
the new tail; the windows are sine windows of L = min(N, Nprev) taps, padded with 0 and 1 (43_stereo_imdct.md R256 to
R259).
R is binary32 (log 5); kernel, scale and window are the defaults (log 8). -/
def Obligations.ImdctWindowFormula : Prop :=
  ∀ (flb len : Nat) (x : ChannelState) (coefs : Array Real32), len ≤ 2048 →
    let d := flb / 2
    let np := x.nprev
    let l := if np = 0 then len else min len np
    let proto (n : Nat) := R32.sinPi (2 * n + 1 : Nat) (4 * l)
    let rise (n : Nat) :=
      if n < (len - l) / 2 then 0 else if n < (len + l) / 2 then proto (n - (len - l) / 2) else R32.ofInt 1
    let fall (m : Nat) :=
      if m < (np - l) / 2 then R32.ofInt 1 else if m < (np + l) / 2 then proto (l - 1 - (m - (np - l) / 2)) else 0
    let y (n : Nat) := R32.mul (R32.div (R32.ofInt 2) (R32.ofInt len))
      (R32.sum ((List.range len).map (fun k => R32.mul (coefs.getD k 0)
        (R32.cosPi ((2 * n + 1 + len) * (2 * k + 1) : Nat) (4 * len)))))
    let a1 (i : Nat) := if np ≠ 0 ∧ d - np / 2 ≤ i ∧ i < d - np / 2 + np then
        R32.add (atD x.acc i 0) (R32.mul (atD x.tail (i - (d - np / 2)) 0) (fall (i - (d - np / 2))))
      else atD x.acc i 0
    let a2 (i : Nat) := if d - len / 2 ≤ i ∧ i < d - len / 2 + len then
        R32.add (a1 i) (R32.mul (y (i - (d - len / 2))) (rise (i - (d - len / 2))))
      else a1 i
    let r := imdctWindow flb x len coefs
    r.2 = (List.range len).map a2 ∧
    r.1 = { x with acc := r.1.acc, tail := r.1.tail, nprev := len } ∧
    (∀ i < 4096, atD r.1.acc i 0 = if i + len < 4096 then a2 (i + len) else 0) ∧
    (∀ m < 2048, atD r.1.tail m 0 = if m < len then y (len + m) else atD x.tail m 0)

/-- IMDCT passes the channel's record through its windows in order and stores what each emits at its samples of TD; every
other element of TD stays; a frameLengthBase that changed while a tail is pending raises InvalidBlockConfig
(43_stereo_imdct.md R256).
R is binary32 (log 5). -/
def Obligations.ImdctWritesTimeDomain : Prop :=
  ∀ (s : State) (c : BitVec 4) (coef : Nat → Real32), s.running → c.toNat < 8 →
    let x := slotOf c
    let y := s.wAt x
    s.allDequantized x = true → s.done x .imdct = false →
    (y.nprev ≠ 0 ∧ y.flbPrev ≠ s.frame.flb → exec (.imdct c) s = .next (s.failedWith 4)) ∧
    ((y.nprev = 0 ∨ y.flbPrev = s.frame.flb) → s.td.wf = true →
      y.wins.Pairwise (fun a b => a.off + a.len ≤ b.off) → (∀ w ∈ y.wins, w.off + w.len ≤ 2048) →
      (∀ w ∈ y.wins, ∀ k < w.len, (s.chanAt x).coef.at? (w.off + k) = some (coef (w.off + k))) →
      ∃ t, exec (.imdct c) s = .next t ∧ endsOn [x] s t ∧ t.pcm = s.pcm ∧ t.qg = s.qg ∧ t.bitpos = s.bitpos ∧
        t.chanAt x = { s.chanAt x with done := (t.chanAt x).done } ∧
        doneAdds .imdct (s.chanAt x).done (t.chanAt x).done ∧
        (let r := imdctRun s.frame.flb coef y y.wins
         t.wAt x = { r.1 with flbPrev := s.frame.flb } ∧
         (∀ e ∈ r.2, ∀ (n : Nat) (h : n < e.2.length), t.tdElem (x.val * 2048 + e.1 + n) = e.2[n])) ∧
        (∀ i, (∀ w ∈ y.wins, ¬(x.val * 2048 + w.off ≤ i ∧ i < x.val * 2048 + w.off + w.len)) →
          t.tdElem i = s.tdElem i))

/-! ## Filterbank -/

/-- QMFA runs the analysis line over TD, 64 samples a timeslot, newest first, and stores the 64 subbands of each timeslot
in QG and Qlow, whose last HIST_TS timeslots become the history; other elements of QG stay; a frame without timeslots
raises InvalidBlockConfig (44_qmf.md R280 to R282).
R is binary32 (log 5), the kernel its default (log 8). -/
def Obligations.QmfaAnalyses : Prop :=
  ∀ (s : State) (c : BitVec 4), s.running → c.toNat < 8 →
    let x := slotOf c
    let y := s.wAt x
    s.done x .imdct = true → s.done x .qmfa = false →
    (s.frame.numTs = none → exec (.qmfa c) s = .next (s.failedWith 4)) ∧
    (∀ (n : Nat) (td : Nat → Real32), s.frame.numTs = some n → n ≤ 32 → s.qg.wf = true → y.qhist.length = s.cfg.histTs →
      (∀ k < 64 * n, s.td.get? (x.val * 2048 + k) = some (td k)) →
      ∃ (t : State) (line : Nat → Vector Real32 640) (rows : List Slot),
        exec (.qmfa c) s = .next t ∧ endsOn [x] s t ∧ t.pcm = s.pcm ∧ t.td = s.td ∧ t.bitpos = s.bitpos ∧
        t.wAt x = { y with qa := line n, qhist := (y.qhist ++ rows).drop n } ∧ rows.length = n ∧
        (t.wAt x).qhist.length = s.cfg.histTs ∧
        t.chanAt x = { s.chanAt x with qlow := some (y.qhist ++ rows), done := (t.chanAt x).done } ∧
        doneAdds .qmfa (s.chanAt x).done (t.chanAt x).done ∧
        line 0 = y.qa ∧
        (∀ ts < n, ∀ i < 640, atD (line (ts + 1)) i 0 =
          if i < 64 then R32.mul Tables.qmfInScale (td (64 * ts + 63 - i)) else atD (line ts) (i - 64) 0) ∧
        (∀ (ts : Nat) (h : ts < rows.length) (k : Fin 64),
          let u (j : Nat) := R32.sum ((List.range 5).map (fun b =>
            R32.mul (atD (line (ts + 1)) (j + 128 * b) 0) (atD s.cfg.qmfWin (j + 128 * b) 0)))
          (rows[ts].get k).re = R32.sum ((List.range 128).map (fun j => R32.mul (u j) (Tables.anaKernel k j).re)) ∧
          (rows[ts].get k).im = R32.sum ((List.range 128).map (fun j => R32.mul (u j) (Tables.anaKernel k j).im)) ∧
          t.gridAt x ts k = rows[ts].get k) ∧
        (∀ e, ¬(x.val * 4096 ≤ e ∧ e < x.val * 4096 + 128 * n) → t.qgElem e = s.qgElem e))

/-- QMFS runs the synthesis line over the rows of QG and stores 64 samples of PCM for each timeslot; other elements of PCM
stay; a frame without timeslots raises InvalidBlockConfig (44_qmf.md R284, R285).
R is binary32 (log 5), kernel and scale are the defaults (log 8). -/
def Obligations.QmfsSynthesizes : Prop :=
  ∀ (s : State) (c : BitVec 4), s.running → c.toNat < 8 →
    let x := slotOf c
    let y := s.wAt x
    s.done x .qmfa = true → s.done x .qmfs = false → (s.done x .axcfg = true → s.done x .axasm = true) →
    (s.frame.numTs = none → exec (.qmfs c) s = .next (s.failedWith 4)) ∧
    (∀ n, s.frame.numTs = some n → n ≤ 32 → s.pcm.wf = true →
      ∃ (t : State) (line : Nat → Vector Real32 1280),
        exec (.qmfs c) s = .next t ∧ endsOn [x] s t ∧ t.qg = s.qg ∧ t.td = s.td ∧ t.bitpos = s.bitpos ∧
        t.wAt x = { y with qs := line n } ∧ t.chanAt x = { s.chanAt x with done := (t.chanAt x).done } ∧
        doneAdds .qmfs (s.chanAt x).done (t.chanAt x).done ∧
        line 0 = y.qs ∧
        (∀ ts < n, ∀ i < 1280, atD (line (ts + 1)) i 0 =
          if i < 128 then
            R32.sum ((List.finRange 64).map (fun k =>
              R32.sub (R32.mul (s.gridAt x ts k).re (Tables.synKernel k i).re)
                (R32.mul (s.gridAt x ts k).im (Tables.synKernel k i).im)))
          else atD (line ts) (i - 128) 0) ∧
        (∀ ts < n, ∀ j < 64, t.pcmElem (x.val * 2048 + 64 * ts + j) =
          R32.mul Tables.qmfOutScale (R32.sum ((List.range 10).map (fun i =>
            R32.mul (atD (line (ts + 1)) (256 * (i / 2) + (if i % 2 = 0 then 0 else 192) + j) 0)
              (atD s.cfg.qmfWin (64 * i + j) 0))))) ∧
        (∀ e, ¬(x.val * 2048 ≤ e ∧ e < x.val * 2048 + 64 * n) → t.pcmElem e = s.pcmElem e))

/-! ## ASPX -/

/-- What BuildTables returns: the master borders from a crossover offset inside the table up, the halved low-resolution
table, the noise table of NoiseCount groups spread over it, the patches of the downward walk, which tile the high band
less a narrow last one, and the limiter table of the merge (45_aspx_tables.md R301, R303 to R308).
GOAL_SB stands at its default (log 8); an offset below 0 is refused by the model's choice (log 10). -/
def Obligations.BuildTablesFollowsRules : Prop :=
  ∀ (p : Params) (cfg : Int × Int × Int) (xo nsb : Int) (t : AspxTabs), buildTables p cfg xo nsb = .ok t →
    let nh := groups t.hi
    let nl := groups t.lo
    let nq := groups t.noise
    let e := 2 * nsb.toNat
    let pb := bordersOf t.sbx t.patches
    0 ≤ xo ∧ xo < t.master.length - 1 ∧
    p.master cfg = some t.master ∧ t.hi = t.master.drop xo.toNat ∧ t.hi.head? = some t.sbx ∧
    t.master.getLast? = some t.sbTop ∧
    nl = nh - nh / 2 ∧ t.lo.head? = some t.sbx ∧
    (∀ i, 1 ≤ i → i ≤ nl → entry t.lo i = entry t.hi (if nh % 2 = 0 then 2 * i else 2 * i - 1)) ∧
    1 ≤ nq ∧ nq ≤ 5 ∧ (2 ^ (2 * nq - 1) * t.sbx ^ e ≤ t.sbTop ^ e ∨ nq = 1) ∧
    t.sbTop ^ e < 2 ^ (2 * nq + 1) * t.sbx ^ e ∧
    (∃ idx : Nat → Nat, idx 0 = 0 ∧ entry t.noise 0 = entry t.lo 0 ∧ ∀ k, 1 ≤ k → k ≤ nq →
      idx k = idx (k - 1) + (nl - idx (k - 1)) / (nq + 1 - k) ∧ entry t.noise k = entry t.lo (idx k)) ∧
    (∃ ps, walked t.master t.sbx t.sbTop ps ∧ t.sbx + (ps.map (·.count)).sum = t.sbTop ∧
      t.patches = if 1 < ps.length ∧ (∃ r ∈ ps.getLast?, r.count < 3) then ps.dropLast else ps) ∧
    t.patches.length ≤ 6 ∧ (∀ r ∈ t.patches, 1 ≤ r.count ∧ 0 ≤ r.src ∧ r.src + r.count ≤ t.sbx ∧
      r.dst + r.count ≤ t.sbTop) ∧
    (∀ r ∈ t.patches.head?, r.dst = t.sbx) ∧ t.patches.IsChain (fun r q => q.dst = r.dst + r.count) ∧
    (∃ cand : List Nat, cand.Perm (t.lo ++ (pb.drop 1).take (t.patches.length - 1)) ∧ cand.Pairwise (· ≤ ·) ∧
      t.lim = cand.foldl (limiterTurn pb) [])

/-- ASPXCFG rebuilds the tables on a key frame whose configuration differs from the last key frame's, or if none were
built, and keeps them otherwise; masterResetPending and the last configuration follow; tables that cannot be built raise
InvalidAspxConfig (45_aspx_tables.md R300; 10_state.md R77). -/
def Obligations.AspxcfgRebuildsOnChange : Prop :=
  ∀ (s : State) (c : BitVec 4), s.running → c.toNat < 8 →
    let x := slotOf c
    let y := s.wAt x
    let cfg := (s.simWord x 0x900, s.simWord x 0x901, s.simWord x 0x902)
    let pending := s.frame.indep && decide (y.cfgPrev ≠ some cfg)
    let built := buildTables s.cfg cfg (s.simWord x 0x903) (s.simWord x 0x904)
    let prev := if s.frame.indep then some cfg else y.cfgPrev
    let ends (t : State) := exec (.aspxcfg c) s = .next t ∧ endsOn [x] s t ∧ gridsKept s t ∧ t.bitpos = s.bitpos ∧
      t.chanAt x = { s.chanAt x with done := (t.chanAt x).done } ∧ doneAdds .axcfg (s.chanAt x).done (t.chanAt x).done
    s.done x .qmfa = true → s.done x .axcfg = false →
    (pending = false → y.tablesValid = true →
      ∃ t, ends t ∧ t.wAt x = { y with masterResetPending := false, cfgPrev := prev }) ∧
    ((pending = true ∨ y.tablesValid = false) →
      (∀ e, built = .error e → exec (.aspxcfg c) s = .next (s.failedWith 5)) ∧
      (∀ b, built = .ok b → ∃ t, ends t ∧
        t.wAt x = { y with
          sbgMaster := b.master, sbgHi := b.hi, sbgLo := b.lo, sbgNoise := b.noise, sbgLim := b.lim
          patches := b.patches.map (fun r => ⟨r.src.toNat, r.dst, r.count⟩), sbx := b.sbx, sbTop := b.sbTop
          tablesValid := true, masterResetPending := pending, cfgPrev := prev }))

/-- ASPXENV accumulates each envelope over frequency or from the envelope before it, keeps the last ones as history, and
checks the quantization mode, the counts, the time grid (InvalidAspxConfig) and the ranges 0..63·a and 0..30
(OutOfRange) (45_aspx_tables.md R320 to R324, R326). `env` and `noise` are values that obey the rules' recurrences. -/
def Obligations.AspxenvDecodesEnvelopes : Prop :=
  ∀ (s : State) (c : BitVec 4) (nEnv nNoise : Nat) (a : Int) (env noise : Nat → Nat → Int), s.running → c.toNat < 8 →
    let x := slotOf c
    let y := s.wAt x
    let mode := s.simWord x 0x905
    let r (l : Nat) := s.simWord x (0x920 + l)
    let n (l : Nat) := groups (if r l = 1 then y.sbgHi else y.sbgLo)
    let nq := groups y.sbgNoise
    let tenv (l : Nat) := s.simWord x (0x910 + l)
    let tnoise (q : Nat) := s.simWord x (0x918 + q)
    let dir (l : Nat) := s.simWord x (0x928 + l)
    let ndir (q : Nat) := s.simWord x (0x930 + q)
    let counts := 1 ≤ nEnv ∧ nEnv ≤ 5 ∧ 1 ≤ nNoise ∧ nNoise ≤ 2 ∧ nNoise ≤ nEnv
    let grid := tenv 0 = 0 ∧ (∃ ts : Nat, s.frame.numTs = some ts ∧ tenv nEnv = ts ∧ tnoise nNoise = ts) ∧
      (∀ l < nEnv, tenv l < tenv (l + 1)) ∧ tnoise 0 = 0 ∧ (∀ q < nNoise, tnoise q < tnoise (q + 1)) ∧
      (∀ q ≤ nNoise, ∃ l ≤ nEnv, tnoise q = tenv l) ∧
      (∀ l < nEnv, (r l = 0 ∨ r l = 1) ∧ (dir l = 0 ∨ dir l = 1)) ∧ (∀ q < nNoise, ndir q = 0 ∨ ndir q = 1) ∧
      (s.frame.indep = true → dir 0 = 0 ∧ ndir 0 = 0)
    let signal := ∀ l < nEnv, ∀ i < n l,
      if dir l = 0 then env l i = ((List.range (i + 1)).map (fun k => s.simWord x (0xA00 + 64 * l + k))).sum
      else ∃ k, resMap y (r l == 1) (if l = 0 then y.freqResPrev else r (l - 1) == 1) i = some k ∧
        (if l = 0 then k < 48 else k < n (l - 1)) ∧
        env l i = (if l = 0 then atD y.qscfPrev k 0 else env (l - 1) k) + s.simWord x (0xA00 + 64 * l + i)
    let floor := ∀ q < nNoise, ∀ j < nq,
      if ndir q = 0 then noise q j = ((List.range (j + 1)).map (fun k => s.simWord x (0xB80 + 8 * q + k))).sum
      else noise q j = (if q = 0 then atD y.qnoisePrev j 0 else noise (q - 1) j) + s.simWord x (0xB80 + 8 * q + j)
    let inRange := (∀ l < nEnv, ∀ i < n l, 0 ≤ env l i ∧ env l i ≤ 63 * a) ∧
      (∀ q < nNoise, ∀ j < nq, 0 ≤ noise q j ∧ noise q j ≤ 30)
    s.done x .axcfg = true → s.done x .axenv = false →
    (mode ≠ 0 → mode ≠ 1 → exec (.aspxenv c) s = .next (s.failedWith 5)) ∧
    ((mode = 0 ∧ a = 2) ∨ (mode = 1 ∧ a = 1) →
      ((s.simWord x 0x906 < 1 ∨ 5 < s.simWord x 0x906 ∨ s.simWord x 0x907 < 1 ∨ 2 < s.simWord x 0x907 ∨
        s.simWord x 0x906 < s.simWord x 0x907) → exec (.aspxenv c) s = .next (s.failedWith 5)) ∧
      (s.simWord x 0x906 = nEnv → s.simWord x 0x907 = nNoise → counts →
        (¬grid → exec (.aspxenv c) s = .next (s.failedWith 5)) ∧
        (grid → (∀ l < nEnv, 1 ≤ n l ∧ n l ≤ 48) → 1 ≤ nq → nq ≤ 5 → signal → floor →
          (¬inRange → exec (.aspxenv c) s = .next (s.failedWith 3)) ∧
          (inRange → ∃ t, exec (.aspxenv c) s = .next t ∧ endsOn [x] s t ∧ gridsKept s t ∧ t.bitpos = s.bitpos ∧
            t.chanAt x = { s.chanAt x with
              qscf := (t.chanAt x).qscf, qnoise := (t.chanAt x).qnoise, done := (t.chanAt x).done } ∧
            doneAdds .axenv (s.chanAt x).done (t.chanAt x).done ∧
            (∀ l < nEnv, ∀ i < n l, (t.chanAt x).qscf.at? (48 * l + i) = some (env l i)) ∧
            (∀ q < nNoise, ∀ j < nq, (t.chanAt x).qnoise.at? (5 * q + j) = some (noise q j)) ∧
            (s.chanAt x).qscf.sameBut (fun k => ∃ l < nEnv, ∃ i < n l, k = 48 * l + i) (t.chanAt x).qscf ∧
            (s.chanAt x).qnoise.sameBut (fun k => ∃ q < nNoise, ∃ j < nq, k = 5 * q + j) (t.chanAt x).qnoise ∧
            t.wAt x = { y with
              qscfPrev := (t.wAt x).qscfPrev, freqResPrev := r (nEnv - 1) == 1, qnoisePrev := (t.wAt x).qnoisePrev } ∧
            (∀ i < 48, atD (t.wAt x).qscfPrev i 0 = if i < n (nEnv - 1) then env (nEnv - 1) i else 0) ∧
            (∀ j < 5, atD (t.wAt x).qnoisePrev j 0 = if j < nq then noise (nNoise - 1) j else 0)))))

/-- ASPXHF solves a predictor for every subband below the crossover, smooths the chirp factors, extrapolates each patch's
subbands from the low band and leaves 0 in the rest of the high band; an inverse-filtering mode outside 0..3 raises
InvalidAspxConfig (46_aspx_synthesis.md R340 to R345). `low` is Xl, the low band with its history.
R is binary32 (log 5), a complex value is divided, subtracted and negated part by part (log 17). -/
def Obligations.AspxhfFillsHighBand : Prop :=
  ∀ (s : State) (c : BitVec 4) (n : Nat) (ql : List Slot) (mode : Nat → Fin 4), s.running → c.toNat < 8 →
    let x := slotOf c
    let y := s.wAt x
    let f := s.chanAt x
    let nq := groups y.sbgNoise
    let low (t : Int) (p : Nat) : Cplx := atD (ql.getD (t + s.cfg.histTs).toNat Slot.zero) p Cplx.zero
    let phi (p i j : Nat) : Cplx := Cx.sum ((List.range (n + s.cfg.aspxDelay)).map (fun k =>
      Cx.mul (low ((k : Int) - s.cfg.aspxDelay - i) p) (Cx.conj (low ((k : Int) - s.cfg.aspxDelay - j) p))))
    let small := R32.ofRat 1 1000000
    let r11 (p : Nat) := (phi p 1 1).re
    let det (p : Nat) := R32.sub (R32.mul (phi p 2 2).re (r11 p)) (Cx.norm2 (phi p 1 2))
    let alpha1 (p : Nat) : Cplx :=
      if R32.le (R32.mul (det p) (det p)) small then Cplx.zero
      else Cx.sdiv (Cx.sub (Cx.mul (phi p 0 1) (phi p 1 2)) (Cx.smul (r11 p) (phi p 0 2))) (det p)
    let alpha0 (p : Nat) : Cplx :=
      if R32.le (R32.mul (r11 p) (r11 p)) small then Cplx.zero
      else Cx.neg (Cx.sdiv (Cx.add (phi p 0 1) (Cx.mul (alpha1 p) (Cx.conj (phi p 1 2)))) (r11 p))
    let target (j : Nat) : Real32 :=
      match (mode j).val, (atD y.invfPrev j 0).val with
      | 0, 1 => R32.ofRat 6 10
      | 0, _ => 0
      | 1, 0 => R32.ofRat 6 10
      | 1, _ => R32.ofRat 75 100
      | 2, _ => R32.ofRat 9 10
      | _, _ => R32.ofRat 98 100
    let smoothed (j : Nat) :=
      if R32.lt (target j) (atD y.chirpPrev j 0) then
        R32.add (R32.mul (R32.ofRat 75 100) (target j)) (R32.mul (R32.ofRat 25 100) (atD y.chirpPrev j 0))
      else
        R32.add (R32.mul (R32.ofRat 90625 100000) (target j)) (R32.mul (R32.ofRat 9375 100000) (atD y.chirpPrev j 0))
    let bw (j : Nat) := if R32.lt (smoothed j) (R32.ofRat 1 64) then 0 else smoothed j
    let sample (p : Nat) (b : Real32) (ts : Nat) : Cplx :=
      let t : Int := (ts : Int) - s.cfg.aspxDelay
      Cx.add (Cx.add (low t p) (Cx.mul (Cx.smul b (alpha0 p)) (low (t - 1) p)))
        (Cx.mul (Cx.smul (R32.mul b b) (alpha1 p)) (low (t - 2) p))
    s.done x .axenv = true → s.done x .axhf = false →
    ((∃ j < nq, s.simWord x (0x940 + j) < 0 ∨ 3 < s.simWord x (0x940 + j)) →
      exec (.aspxhf c) s = .next (s.failedWith 5)) ∧
    ((∀ j < nq, s.simWord x (0x940 + j) = (mode j).val) → nq ≤ 5 → s.frame.numTs = some n → n ≤ 32 →
      f.qlow = some ql → ql.length = s.cfg.histTs + n → y.sbx ≤ y.sbTop → y.sbTop ≤ 64 →
      (∀ r ∈ y.patches, r.src + r.count ≤ y.sbx ∧ y.sbx ≤ r.dst ∧ r.dst + r.count ≤ y.sbTop) →
      (y.patches.flatMap (fun r => List.range' r.dst r.count)).Nodup →
      (∀ m, y.sbx ≤ m → m < y.sbTop → (grp? y.sbgNoise m).isSome = true) →
      ∃ t, exec (.aspxhf c) s = .next t ∧ endsOn [x] s t ∧ gridsKept s t ∧ t.bitpos = s.bitpos ∧
        t.chanAt x = { f with
          qhigh := (t.chanAt x).qhigh, chirp := (t.chanAt x).chirp, done := (t.chanAt x).done } ∧
        doneAdds .axhf f.done (t.chanAt x).done ∧
        (∀ r ∈ y.patches, ∀ k < r.count, ∀ j, grp? y.sbgNoise (r.dst + k) = some j → ∀ ts < n,
          (t.chanAt x).qhigh.at? (64 * ts + (r.dst + k)) = some (sample (r.src + k) (bw j) ts)) ∧
        (∀ m, y.sbx ≤ m → m < y.sbTop → (∀ r ∈ y.patches, ¬(r.dst ≤ m ∧ m < r.dst + r.count)) → ∀ ts < n,
          (t.chanAt x).qhigh.at? (64 * ts + m) = some Cplx.zero) ∧
        f.qhigh.sameBut (fun i => ∃ ts < n, ∃ m, y.sbx ≤ m ∧ m < y.sbTop ∧ i = 64 * ts + m) (t.chanAt x).qhigh ∧
        (∀ j, (t.chanAt x).chirp.at? j = if j < nq then some (bw j) else f.chirp.at? j) ∧
        t.wAt x = { y with
          chirpPrev := (t.wAt x).chirpPrev, invfPrev := (t.wAt x).invfPrev, alphaPrev := (t.wAt x).alphaPrev } ∧
        (∀ j < 5, atD (t.wAt x).chirpPrev j 0 = (if j < nq then bw j else atD y.chirpPrev j 0) ∧
          atD (t.wAt x).invfPrev j 0 = if j < nq then mode j else atD y.invfPrev j 0) ∧
        (∀ p : Fin 64, (t.wAt x).alphaPrev.get p =
          if p.val < y.sbx then (alpha0 p.val, alpha1 p.val) else y.alphaPrev.get p))

/-- ASPXGAIN dequantizes the envelopes, alone or as a balance pair, places the tones, estimates the energies, and gives
every subband of a limiter group its limited and boosted gain, noise and tone level. A bad quantization mode, balance word,
partner slot or sine flag, and a partner that does not name c or differs in grids, tables or divisor, raise
InvalidAspxConfig; a partner without its envelopes raises IllegalCommand (46_aspx_synthesis.md R350 to R358). A subband in
no limiter group has levels, but the rules do not state them (log 9).
R is binary32 (log 5), the constants are the defaults (log 8), min is log 17's; the first of several noise envelopes that
hold one is log 11's. -/
def Obligations.AspxgainLimitsAndBoosts : Prop :=
  ∀ (s : State) (c : BitVec 4) (nEnv : Nat) (a : Int) (pair : Option (Fin 8)) (i : Nat → Nat → Nat) (j q : Nat → Nat)
    (env noise : Fin 8 → Nat → Nat → Int) (hi : Nat → Nat → Cplx), s.running → c.toNat < 8 →
    let x := slotOf c
    let y := s.wAt x
    let f := s.chanAt x
    let mode := s.simWord x 0x905
    let r (l : Nat) := s.simWord x (0x920 + l)
    let table (l : Nat) := if r l = 1 then y.sbgHi else y.sbgLo
    let tenv (l : Nat) := s.simWord x (0x910 + l)
    let tnoise (k : Nat) := s.simWord x (0x918 + k)
    let flag (k : Nat) := s.simWord x (0x950 + k)
    let coded := s.simWord x 0x908
    let partner := s.simWord x 0x909
    let one := R32.ofInt 1
    let toneAt (m : Nat) := (List.range (groups y.sbgHi)).any (fun k =>
      flag k == 1 && m == (entry y.sbgHi k + entry y.sbgHi (k + 1)) / 2)
    let six (k : Int) := R32.pow2 (R32.ofInt k)
    let lvl := match pair with | none => x | some p => min x p
    let bal := match pair with | none => x | some p => max x p
    let sgn : Int := if lvl = x then 1 else -1
    let eo (l m : Nat) :=
      let e0 := R32.div (R32.ofInt (env lvl l (i l m))) (R32.ofInt a)
      if pair = none then R32.mul (R32.ofInt 64) (R32.pow2 e0)
      else R32.div (R32.mul (R32.ofInt 64) (R32.pow2 (R32.add e0 one)))
        (R32.add one (R32.pow2 (R32.div (R32.ofInt (sgn * (12 * a - env bal l (i l m)))) (R32.ofInt a))))
    let qo (l m : Nat) :=
      if pair = none then six (6 - noise x (q l) (j m))
      else R32.div (six (6 - noise lvl (q l) (j m) + 1)) (R32.add one (six (sgn * (12 - noise bal (q l) (j m)))))
    let ec (l m : Nat) := R32.div (R32.sum ((List.range' (tenv l).toNat (tenv (l + 1) - tenv l).toNat).map (fun ts =>
      Cx.norm2 (hi ts m)))) (R32.ofInt (tenv (l + 1) - tenv l))
    let sig (l m : Nat) := (List.range 64).any (fun k =>
      toneAt k && decide (entry (table l) (i l m) ≤ k) && decide (k < entry (table l) (i l m + 1)))
    let qm (l m : Nat) := R32.sqrt (R32.div (R32.mul (eo l m) (qo l m)) (R32.add one (qo l m)))
    let sm (l m : Nat) := if toneAt m then R32.sqrt (R32.div (eo l m) (R32.add one (qo l m))) else 0
    let g (l m : Nat) :=
      if sig l m then
        R32.sqrt (R32.mul (R32.div (eo l m) (R32.add one (ec l m))) (R32.div (qo l m) (R32.add one (qo l m))))
      else R32.sqrt (R32.div (eo l m) (R32.mul (R32.add one (ec l m)) (R32.add one (qo l m))))
    let members (u : Nat) := (List.range' y.sbx (y.sbTop - y.sbx)).filter (fun m =>
      decide (entry y.sbgLim u ≤ m) && decide (m < entry y.sbgLim (u + 1)))
    let sO (l u : Nat) := R32.sum ((members u).map (eo l))
    let sC (l u : Nat) := R32.sum ((members u).map (ec l))
    let gmax (l u : Nat) := R32.min
      (R32.mul (R32.ofRat 141254 100000) (R32.sqrt (if R32.eq (sC l u) 0 then one else R32.div (sO l u) (sC l u))))
      (R32.ofInt 100000)
    let glim (l u m : Nat) := if R32.lt (gmax l u) (g l m) then gmax l u else g l m
    let qlim (l u m : Nat) :=
      if R32.lt (gmax l u) (g l m) then R32.mul (qm l m) (R32.div (gmax l u) (g l m)) else qm l m
    let den (l u : Nat) := R32.sum ((members u).map (fun m =>
      R32.add (R32.add (R32.mul (ec l m) (R32.mul (glim l u m) (glim l u m))) (R32.mul (sm l m) (sm l m)))
        (if R32.eq (sm l m) 0 then R32.mul (qlim l u m) (qlim l u m) else 0)))
    let gb (l u : Nat) := R32.min (if R32.eq (den l u) 0 then one else R32.sqrt (R32.div (sO l u) (den l u)))
      (R32.ofRat 1584893192 1000000000)
    let written (k : Nat) := ∃ l < nEnv, ∃ m, y.sbx ≤ m ∧ m < y.sbTop ∧ k = 64 * l + m
    s.done x .axhf = true → s.done x .axgain = false →
    (mode ≠ 0 → mode ≠ 1 → exec (.aspxgain c) s = .next (s.failedWith 5)) ∧
    ((mode = 0 ∧ a = 2) ∨ (mode = 1 ∧ a = 1) →
      (coded ≠ 0 → coded ≠ 1 → exec (.aspxgain c) s = .next (s.failedWith 5)) ∧
      (coded = 1 → (partner < 0 ∨ 8 ≤ partner ∨ partner = x.val) → exec (.aspxgain c) s = .next (s.failedWith 5)) ∧
      (∀ d : Fin 8, coded = 1 → partner = d.val → d ≠ x →
        (s.done d .axenv = false → exec (.aspxgain c) s = .next (s.failedWith 6)) ∧
        (s.done d .axenv = true → ¬s.agreesAsPair x d → exec (.aspxgain c) s = .next (s.failedWith 5))) ∧
      ((coded = 0 ∧ pair = none) ∨
          (∃ d : Fin 8, coded = 1 ∧ partner = d.val ∧ d ≠ x ∧ s.done d .axenv = true ∧ s.agreesAsPair x d ∧ pair = some d) →
        ((∃ k < groups y.sbgHi, flag k ≠ 0 ∧ flag k ≠ 1) → exec (.aspxgain c) s = .next (s.failedWith 5)) ∧
        ((∀ k < groups y.sbgHi, flag k = 0 ∨ flag k = 1) → s.simWord x 0x906 = nEnv → nEnv ≤ 5 → y.sbTop ≤ 64 →
          (∀ l < nEnv, (r l = 0 ∨ r l = 1) ∧ (tenv (l + 1) ≤ tenv l ∨ 0 ≤ tenv l ∧ tenv (l + 1) ≤ 32) ∧
            (q l : Int) < s.simWord x 0x907 ∧ tnoise (q l) ≤ tenv l ∧ tenv l < tnoise (q l + 1) ∧
            (∀ k < q l, ¬(tnoise k ≤ tenv l ∧ tenv l < tnoise (k + 1))) ∧ ∀ m, y.sbx ≤ m → m < y.sbTop →
              grp? (table l) m = some (i l m) ∧ grp? y.sbgNoise m = some (j m) ∧
              (∀ d ∈ x :: pair.toList, (s.chanAt d).qscf.at? (48 * l + i l m) = some (env d l (i l m)) ∧
                (s.chanAt d).qnoise.at? (5 * q l + j m) = some (noise d (q l) (j m))) ∧
              ∀ ts : Nat, tenv l ≤ ts → (ts : Int) < tenv (l + 1) → f.qhigh.at? (64 * ts + m) = some (hi ts m)) →
          ∃ t, exec (.aspxgain c) s = .next t ∧ endsOn [x] s t ∧ gridsKept s t ∧ t.wAt x = y ∧ t.bitpos = s.bitpos ∧
            t.chanAt x = { f with
              toneAt := (t.chanAt x).toneAt, gainS := (t.chanAt x).gainS, lvlN := (t.chanAt x).lvlN
              lvlT := (t.chanAt x).lvlT, done := (t.chanAt x).done } ∧
            doneAdds .axgain f.done (t.chanAt x).done ∧
            (t.chanAt x).toneAt = some (Vector.ofFn (fun m => toneAt m.val)) ∧
            (∀ l < nEnv, ∀ m, y.sbx ≤ m → m < y.sbTop →
              (∀ u, grp? y.sbgLim m = some u →
                (t.chanAt x).gainS.at? (64 * l + m) = some (R32.mul (glim l u m) (gb l u)) ∧
                (t.chanAt x).lvlN.at? (64 * l + m) =
                  some (if toneAt m then 0 else R32.mul (qlim l u m) (gb l u)) ∧
                (t.chanAt x).lvlT.at? (64 * l + m) = some (R32.mul (sm l m) (gb l u))) ∧
              ((t.chanAt x).gainS.at? (64 * l + m)).isSome = true ∧
              ((t.chanAt x).lvlN.at? (64 * l + m)).isSome = true ∧
              ((t.chanAt x).lvlT.at? (64 * l + m)).isSome = true) ∧
            f.gainS.sameBut written (t.chanAt x).gainS ∧ f.lvlN.sameBut written (t.chanAt x).lvlN ∧
            f.lvlT.sameBut written (t.chanAt x).lvlT)))

/-- ASPXASM adds to each subband of the high band the scaled high band, the noise and the tone of its timeslot, drawn at
counters that advance by one a timeslot; every other element of QG stays (46_aspx_synthesis.md R365, R366).
R is binary32 (log 5), the phase table its default (log 8); the first of several envelopes that hold a timeslot is log 11's. -/
def Obligations.AspxasmAssembles : Prop :=
  ∀ (s : State) (c : BitVec 4) (n : Nat) (env : Nat → Nat) (gain noise tone : Nat → Nat → Real32) (hi : Nat → Nat → Cplx),
    s.running → c.toNat < 8 →
    let x := slotOf c
    let y := s.wAt x
    let f := s.chanAt x
    let added (ts m : Nat) : Cplx :=
      let k := ((atD y.sineIdx m 0).val + ts) % 4
      let sine : Cplx :=
        ⟨R32.ofInt ([1, 0, -1, 0].getD k 0),
          R32.mul (R32.ofInt (if m % 2 = 0 then 1 else -1)) (R32.ofInt ([0, 1, 0, -1].getD k 0))⟩
      Cx.add (Cx.add (Cx.smul (gain (env ts) m) (hi ts m))
          (Cx.smul (noise (env ts) m) (atD s.cfg.noiseTab (((atD y.noiseIdx m 0).val + ts) % 512) Cplx.zero)))
        (Cx.smul (tone (env ts) m) sine)
    let holds (ts l : Nat) := s.simWord x (0x910 + l) ≤ (ts : Int) ∧ (ts : Int) < s.simWord x (0x910 + l + 1)
    s.done x .axgain = true → s.done x .axasm = false → s.frame.numTs = some n → n ≤ 32 → y.sbTop ≤ 64 →
    s.qg.wf = true →
    (∀ ts < n, ((env ts : Int) < s.simWord x 0x906 ∧ 0x911 + env ts < 4096 ∧ holds ts (env ts) ∧
      ∀ l < env ts, ¬holds ts l) ∧ ∀ m, y.sbx ≤ m → m < y.sbTop →
      f.gainS.at? (64 * env ts + m) = some (gain (env ts) m) ∧ f.lvlN.at? (64 * env ts + m) = some (noise (env ts) m) ∧
      f.lvlT.at? (64 * env ts + m) = some (tone (env ts) m) ∧ f.qhigh.at? (64 * ts + m) = some (hi ts m)) →
    ∃ t, exec (.aspxasm c) s = .next t ∧ endsOn [x] s t ∧ t.pcm = s.pcm ∧ t.td = s.td ∧ t.bitpos = s.bitpos ∧
      t.chanAt x = { f with done := (t.chanAt x).done } ∧ doneAdds .axasm f.done (t.chanAt x).done ∧
      t.wAt x = { y with noiseIdx := (t.wAt x).noiseIdx, sineIdx := (t.wAt x).sineIdx } ∧
      (∀ m : Fin 64, let moved := y.sbx ≤ m.val ∧ m.val < y.sbTop
        ((t.wAt x).noiseIdx.get m).val = (if moved then ((y.noiseIdx.get m).val + n) % 512 else (y.noiseIdx.get m).val) ∧
        ((t.wAt x).sineIdx.get m).val = if moved then ((y.sineIdx.get m).val + n) % 4 else (y.sineIdx.get m).val) ∧
      (∀ ts < n, ∀ m, y.sbx ≤ m → m < y.sbTop → t.gridAt x ts m = Cx.add (s.gridAt x ts m) (added ts m)) ∧
      (∀ e, (∀ ts < n, ∀ m, y.sbx ≤ m → m < y.sbTop → e ≠ qgIndex x ts m ∧ e ≠ qgIndex x ts m + 1) →
        t.qgElem e = s.qgElem e)
end

