-- ==== Sys2Proof/Laws/State.lean ====
section
/-! SUPPORT. For each shared update of State what it makes of each field, and for each change of STATUS what it makes of
each flag. -/

namespace Sys2Proof.Laws

open Sys2Proof Sys2Proof.Machine

variable (s : State)

/-! ### Updates of State -/

@[simp] theorem setW_cfg (c : Fin 8) (x : ChannelState) : (s.setW c x).cfg = s.cfg := rfl
@[simp] theorem setW_ctrl (c : Fin 8) (x : ChannelState) : (s.setW c x).ctrl = s.ctrl := rfl
@[simp] theorem setW_status (c : Fin 8) (x : ChannelState) : (s.setW c x).status = s.status := rfl
@[simp] theorem setW_cmd (c : Fin 8) (x : ChannelState) : (s.setW c x).cmd = s.cmd := rfl
@[simp] theorem setW_arg0 (c : Fin 8) (x : ChannelState) : (s.setW c x).arg0 = s.arg0 := rfl
@[simp] theorem setW_arg1 (c : Fin 8) (x : ChannelState) : (s.setW c x).arg1 = s.arg1 := rfl
@[simp] theorem setW_result (c : Fin 8) (x : ChannelState) : (s.setW c x).result = s.result := rfl
@[simp] theorem setW_bitpos (c : Fin 8) (x : ChannelState) : (s.setW c x).bitpos = s.bitpos := rfl
@[simp] theorem setW_bitlen (c : Fin 8) (x : ChannelState) : (s.setW c x).bitlen = s.bitlen := rfl
@[simp] theorem setW_fcfg (c : Fin 8) (x : ChannelState) : (s.setW c x).fcfg = s.fcfg := rfl
@[simp] theorem setW_seq (c : Fin 8) (x : ChannelState) : (s.setW c x).seq = s.seq := rfl
@[simp] theorem setW_haddr (c : Fin 8) (x : ChannelState) : (s.setW c x).haddr = s.haddr := rfl
@[simp] theorem setW_bsm (c : Fin 8) (x : ChannelState) : (s.setW c x).bsm = s.bsm := rfl
@[simp] theorem setW_sim (c : Fin 8) (x : ChannelState) : (s.setW c x).sim = s.sim := rfl
@[simp] theorem setW_pcm (c : Fin 8) (x : ChannelState) : (s.setW c x).pcm = s.pcm := rfl
@[simp] theorem setW_qg (c : Fin 8) (x : ChannelState) : (s.setW c x).qg = s.qg := rfl
@[simp] theorem setW_td (c : Fin 8) (x : ChannelState) : (s.setW c x).td = s.td := rfl
@[simp] theorem setW_w (c : Fin 8) (x : ChannelState) : (s.setW c x).w = s.w.set c x := rfl
@[simp] theorem setW_k (c : Fin 8) (x : ChannelState) : (s.setW c x).k = s.k := rfl
@[simp] theorem setW_frame (c : Fin 8) (x : ChannelState) : (s.setW c x).frame = s.frame := rfl
@[simp] theorem setW_chan (c : Fin 8) (x : ChannelState) : (s.setW c x).chan = s.chan := rfl
@[simp] theorem setW_hostQ (c : Fin 8) (x : ChannelState) : (s.setW c x).hostQ = s.hostQ := rfl
@[simp] theorem setW_rdata (c : Fin 8) (x : ChannelState) : (s.setW c x).rdata = s.rdata := rfl
@[simp] theorem setW_draw (c : Fin 8) (x : ChannelState) : (s.setW c x).draw = s.draw := rfl

@[simp] theorem setK_cfg (c : Fin 8) (x : ChannelState) : (s.setK c x).cfg = s.cfg := rfl
@[simp] theorem setK_ctrl (c : Fin 8) (x : ChannelState) : (s.setK c x).ctrl = s.ctrl := rfl
@[simp] theorem setK_status (c : Fin 8) (x : ChannelState) : (s.setK c x).status = s.status := rfl
@[simp] theorem setK_cmd (c : Fin 8) (x : ChannelState) : (s.setK c x).cmd = s.cmd := rfl
@[simp] theorem setK_arg0 (c : Fin 8) (x : ChannelState) : (s.setK c x).arg0 = s.arg0 := rfl
@[simp] theorem setK_arg1 (c : Fin 8) (x : ChannelState) : (s.setK c x).arg1 = s.arg1 := rfl
@[simp] theorem setK_result (c : Fin 8) (x : ChannelState) : (s.setK c x).result = s.result := rfl
@[simp] theorem setK_bitpos (c : Fin 8) (x : ChannelState) : (s.setK c x).bitpos = s.bitpos := rfl
@[simp] theorem setK_bitlen (c : Fin 8) (x : ChannelState) : (s.setK c x).bitlen = s.bitlen := rfl
@[simp] theorem setK_fcfg (c : Fin 8) (x : ChannelState) : (s.setK c x).fcfg = s.fcfg := rfl
@[simp] theorem setK_seq (c : Fin 8) (x : ChannelState) : (s.setK c x).seq = s.seq := rfl
@[simp] theorem setK_haddr (c : Fin 8) (x : ChannelState) : (s.setK c x).haddr = s.haddr := rfl
@[simp] theorem setK_bsm (c : Fin 8) (x : ChannelState) : (s.setK c x).bsm = s.bsm := rfl
@[simp] theorem setK_sim (c : Fin 8) (x : ChannelState) : (s.setK c x).sim = s.sim := rfl
@[simp] theorem setK_pcm (c : Fin 8) (x : ChannelState) : (s.setK c x).pcm = s.pcm := rfl
@[simp] theorem setK_qg (c : Fin 8) (x : ChannelState) : (s.setK c x).qg = s.qg := rfl
@[simp] theorem setK_td (c : Fin 8) (x : ChannelState) : (s.setK c x).td = s.td := rfl
@[simp] theorem setK_w (c : Fin 8) (x : ChannelState) : (s.setK c x).w = s.w := rfl
@[simp] theorem setK_k (c : Fin 8) (x : ChannelState) : (s.setK c x).k = s.k.set c x := rfl
@[simp] theorem setK_frame (c : Fin 8) (x : ChannelState) : (s.setK c x).frame = s.frame := rfl
@[simp] theorem setK_chan (c : Fin 8) (x : ChannelState) : (s.setK c x).chan = s.chan := rfl
@[simp] theorem setK_hostQ (c : Fin 8) (x : ChannelState) : (s.setK c x).hostQ = s.hostQ := rfl
@[simp] theorem setK_rdata (c : Fin 8) (x : ChannelState) : (s.setK c x).rdata = s.rdata := rfl
@[simp] theorem setK_draw (c : Fin 8) (x : ChannelState) : (s.setK c x).draw = s.draw := rfl

@[simp] theorem setChan_cfg (c : Fin 8) (x : ChanFrame) : (s.setChan c x).cfg = s.cfg := rfl
@[simp] theorem setChan_ctrl (c : Fin 8) (x : ChanFrame) : (s.setChan c x).ctrl = s.ctrl := rfl
@[simp] theorem setChan_status (c : Fin 8) (x : ChanFrame) : (s.setChan c x).status = s.status := rfl
@[simp] theorem setChan_cmd (c : Fin 8) (x : ChanFrame) : (s.setChan c x).cmd = s.cmd := rfl
@[simp] theorem setChan_arg0 (c : Fin 8) (x : ChanFrame) : (s.setChan c x).arg0 = s.arg0 := rfl
@[simp] theorem setChan_arg1 (c : Fin 8) (x : ChanFrame) : (s.setChan c x).arg1 = s.arg1 := rfl
@[simp] theorem setChan_result (c : Fin 8) (x : ChanFrame) : (s.setChan c x).result = s.result := rfl
@[simp] theorem setChan_bitpos (c : Fin 8) (x : ChanFrame) : (s.setChan c x).bitpos = s.bitpos := rfl
@[simp] theorem setChan_bitlen (c : Fin 8) (x : ChanFrame) : (s.setChan c x).bitlen = s.bitlen := rfl
@[simp] theorem setChan_fcfg (c : Fin 8) (x : ChanFrame) : (s.setChan c x).fcfg = s.fcfg := rfl
@[simp] theorem setChan_seq (c : Fin 8) (x : ChanFrame) : (s.setChan c x).seq = s.seq := rfl
@[simp] theorem setChan_haddr (c : Fin 8) (x : ChanFrame) : (s.setChan c x).haddr = s.haddr := rfl
@[simp] theorem setChan_bsm (c : Fin 8) (x : ChanFrame) : (s.setChan c x).bsm = s.bsm := rfl
@[simp] theorem setChan_sim (c : Fin 8) (x : ChanFrame) : (s.setChan c x).sim = s.sim := rfl
@[simp] theorem setChan_pcm (c : Fin 8) (x : ChanFrame) : (s.setChan c x).pcm = s.pcm := rfl
@[simp] theorem setChan_qg (c : Fin 8) (x : ChanFrame) : (s.setChan c x).qg = s.qg := rfl
@[simp] theorem setChan_td (c : Fin 8) (x : ChanFrame) : (s.setChan c x).td = s.td := rfl
@[simp] theorem setChan_w (c : Fin 8) (x : ChanFrame) : (s.setChan c x).w = s.w := rfl
@[simp] theorem setChan_k (c : Fin 8) (x : ChanFrame) : (s.setChan c x).k = s.k := rfl
@[simp] theorem setChan_frame (c : Fin 8) (x : ChanFrame) : (s.setChan c x).frame = s.frame := rfl
@[simp] theorem setChan_chan (c : Fin 8) (x : ChanFrame) : (s.setChan c x).chan = s.chan.set c x := rfl
@[simp] theorem setChan_hostQ (c : Fin 8) (x : ChanFrame) : (s.setChan c x).hostQ = s.hostQ := rfl
@[simp] theorem setChan_rdata (c : Fin 8) (x : ChanFrame) : (s.setChan c x).rdata = s.rdata := rfl
@[simp] theorem setChan_draw (c : Fin 8) (x : ChanFrame) : (s.setChan c x).draw = s.draw := rfl

@[simp] theorem markDone_cfg (c : Fin 8) (x : Stage) : (s.markDone c x).cfg = s.cfg := rfl
@[simp] theorem markDone_ctrl (c : Fin 8) (x : Stage) : (s.markDone c x).ctrl = s.ctrl := rfl
@[simp] theorem markDone_status (c : Fin 8) (x : Stage) : (s.markDone c x).status = s.status := rfl
@[simp] theorem markDone_cmd (c : Fin 8) (x : Stage) : (s.markDone c x).cmd = s.cmd := rfl
@[simp] theorem markDone_arg0 (c : Fin 8) (x : Stage) : (s.markDone c x).arg0 = s.arg0 := rfl
@[simp] theorem markDone_arg1 (c : Fin 8) (x : Stage) : (s.markDone c x).arg1 = s.arg1 := rfl
@[simp] theorem markDone_result (c : Fin 8) (x : Stage) : (s.markDone c x).result = s.result := rfl
@[simp] theorem markDone_bitpos (c : Fin 8) (x : Stage) : (s.markDone c x).bitpos = s.bitpos := rfl
@[simp] theorem markDone_bitlen (c : Fin 8) (x : Stage) : (s.markDone c x).bitlen = s.bitlen := rfl
@[simp] theorem markDone_fcfg (c : Fin 8) (x : Stage) : (s.markDone c x).fcfg = s.fcfg := rfl
@[simp] theorem markDone_seq (c : Fin 8) (x : Stage) : (s.markDone c x).seq = s.seq := rfl
@[simp] theorem markDone_haddr (c : Fin 8) (x : Stage) : (s.markDone c x).haddr = s.haddr := rfl
@[simp] theorem markDone_bsm (c : Fin 8) (x : Stage) : (s.markDone c x).bsm = s.bsm := rfl
@[simp] theorem markDone_sim (c : Fin 8) (x : Stage) : (s.markDone c x).sim = s.sim := rfl
@[simp] theorem markDone_pcm (c : Fin 8) (x : Stage) : (s.markDone c x).pcm = s.pcm := rfl
@[simp] theorem markDone_qg (c : Fin 8) (x : Stage) : (s.markDone c x).qg = s.qg := rfl
@[simp] theorem markDone_td (c : Fin 8) (x : Stage) : (s.markDone c x).td = s.td := rfl
@[simp] theorem markDone_w (c : Fin 8) (x : Stage) : (s.markDone c x).w = s.w := rfl
@[simp] theorem markDone_k (c : Fin 8) (x : Stage) : (s.markDone c x).k = s.k := rfl
@[simp] theorem markDone_frame (c : Fin 8) (x : Stage) : (s.markDone c x).frame = s.frame := rfl
@[simp] theorem markDone_chan (c : Fin 8) (x : Stage) : (s.markDone c x).chan = s.chan.set c { s.chanAt c with done := (s.chanAt c).done.add x } := rfl
@[simp] theorem markDone_hostQ (c : Fin 8) (x : Stage) : (s.markDone c x).hostQ = s.hostQ := rfl
@[simp] theorem markDone_rdata (c : Fin 8) (x : Stage) : (s.markDone c x).rdata = s.rdata := rfl
@[simp] theorem markDone_draw (c : Fin 8) (x : Stage) : (s.markDone c x).draw = s.draw := rfl

@[simp] theorem complete_cfg : (s.complete).cfg = s.cfg := rfl
@[simp] theorem complete_ctrl : (s.complete).ctrl = s.ctrl := rfl
@[simp] theorem complete_status : (s.complete).status = s.status.complete := rfl
@[simp] theorem complete_cmd : (s.complete).cmd = s.cmd := rfl
@[simp] theorem complete_arg0 : (s.complete).arg0 = s.arg0 := rfl
@[simp] theorem complete_arg1 : (s.complete).arg1 = s.arg1 := rfl
@[simp] theorem complete_result : (s.complete).result = s.result := rfl
@[simp] theorem complete_bitpos : (s.complete).bitpos = s.bitpos := rfl
@[simp] theorem complete_bitlen : (s.complete).bitlen = s.bitlen := rfl
@[simp] theorem complete_fcfg : (s.complete).fcfg = s.fcfg := rfl
@[simp] theorem complete_seq : (s.complete).seq = s.seq := rfl
@[simp] theorem complete_haddr : (s.complete).haddr = s.haddr := rfl
@[simp] theorem complete_bsm : (s.complete).bsm = s.bsm := rfl
@[simp] theorem complete_sim : (s.complete).sim = s.sim := rfl
@[simp] theorem complete_pcm : (s.complete).pcm = s.pcm := rfl
@[simp] theorem complete_qg : (s.complete).qg = s.qg := rfl
@[simp] theorem complete_td : (s.complete).td = s.td := rfl
@[simp] theorem complete_w : (s.complete).w = s.w := rfl
@[simp] theorem complete_k : (s.complete).k = s.k := rfl
@[simp] theorem complete_frame : (s.complete).frame = s.frame := rfl
@[simp] theorem complete_chan : (s.complete).chan = s.chan := rfl
@[simp] theorem complete_hostQ : (s.complete).hostQ = s.hostQ := rfl
@[simp] theorem complete_rdata : (s.complete).rdata = s.rdata := rfl
@[simp] theorem complete_draw : (s.complete).draw = s.draw := rfl

@[simp] theorem takeFatal_cfg (e : FatalError) : (s.takeFatal e).cfg = s.cfg := rfl
@[simp] theorem takeFatal_ctrl (e : FatalError) : (s.takeFatal e).ctrl = s.ctrl := rfl
@[simp] theorem takeFatal_status (e : FatalError) : (s.takeFatal e).status = s.status.fatal e := rfl
@[simp] theorem takeFatal_cmd (e : FatalError) : (s.takeFatal e).cmd = s.cmd := rfl
@[simp] theorem takeFatal_arg0 (e : FatalError) : (s.takeFatal e).arg0 = s.arg0 := rfl
@[simp] theorem takeFatal_arg1 (e : FatalError) : (s.takeFatal e).arg1 = s.arg1 := rfl
@[simp] theorem takeFatal_result (e : FatalError) : (s.takeFatal e).result = s.result := rfl
@[simp] theorem takeFatal_bitpos (e : FatalError) : (s.takeFatal e).bitpos = s.bitpos := rfl
@[simp] theorem takeFatal_bitlen (e : FatalError) : (s.takeFatal e).bitlen = s.bitlen := rfl
@[simp] theorem takeFatal_fcfg (e : FatalError) : (s.takeFatal e).fcfg = s.fcfg := rfl
@[simp] theorem takeFatal_seq (e : FatalError) : (s.takeFatal e).seq = s.seq := rfl
@[simp] theorem takeFatal_haddr (e : FatalError) : (s.takeFatal e).haddr = s.haddr := rfl
@[simp] theorem takeFatal_bsm (e : FatalError) : (s.takeFatal e).bsm = s.bsm := rfl
@[simp] theorem takeFatal_sim (e : FatalError) : (s.takeFatal e).sim = s.sim := rfl
@[simp] theorem takeFatal_pcm (e : FatalError) : (s.takeFatal e).pcm = s.pcm := rfl
@[simp] theorem takeFatal_qg (e : FatalError) : (s.takeFatal e).qg = s.qg := rfl
@[simp] theorem takeFatal_td (e : FatalError) : (s.takeFatal e).td = s.td := rfl
@[simp] theorem takeFatal_w (e : FatalError) : (s.takeFatal e).w = s.w := rfl
@[simp] theorem takeFatal_k (e : FatalError) : (s.takeFatal e).k = s.k := rfl
@[simp] theorem takeFatal_frame (e : FatalError) : (s.takeFatal e).frame = s.frame := rfl
@[simp] theorem takeFatal_chan (e : FatalError) : (s.takeFatal e).chan = s.chan := rfl
@[simp] theorem takeFatal_hostQ (e : FatalError) : (s.takeFatal e).hostQ = s.hostQ := rfl
@[simp] theorem takeFatal_rdata (e : FatalError) : (s.takeFatal e).rdata = s.rdata := rfl
@[simp] theorem takeFatal_draw (e : FatalError) : (s.takeFatal e).draw = s.draw := rfl

@[simp] theorem takeWarning_cfg (x : Warning) : (s.takeWarning x).cfg = s.cfg := rfl
@[simp] theorem takeWarning_ctrl (x : Warning) : (s.takeWarning x).ctrl = s.ctrl := rfl
@[simp] theorem takeWarning_status (x : Warning) : (s.takeWarning x).status = s.status.raiseWarning x := rfl
@[simp] theorem takeWarning_cmd (x : Warning) : (s.takeWarning x).cmd = s.cmd := rfl
@[simp] theorem takeWarning_arg0 (x : Warning) : (s.takeWarning x).arg0 = s.arg0 := rfl
@[simp] theorem takeWarning_arg1 (x : Warning) : (s.takeWarning x).arg1 = s.arg1 := rfl
@[simp] theorem takeWarning_result (x : Warning) : (s.takeWarning x).result = s.result := rfl
@[simp] theorem takeWarning_bitpos (x : Warning) : (s.takeWarning x).bitpos = s.bitpos := rfl
@[simp] theorem takeWarning_bitlen (x : Warning) : (s.takeWarning x).bitlen = s.bitlen := rfl
@[simp] theorem takeWarning_fcfg (x : Warning) : (s.takeWarning x).fcfg = s.fcfg := rfl
@[simp] theorem takeWarning_seq (x : Warning) : (s.takeWarning x).seq = s.seq := rfl
@[simp] theorem takeWarning_haddr (x : Warning) : (s.takeWarning x).haddr = s.haddr := rfl
@[simp] theorem takeWarning_bsm (x : Warning) : (s.takeWarning x).bsm = s.bsm := rfl
@[simp] theorem takeWarning_sim (x : Warning) : (s.takeWarning x).sim = s.sim := rfl
@[simp] theorem takeWarning_pcm (x : Warning) : (s.takeWarning x).pcm = s.pcm := rfl
@[simp] theorem takeWarning_qg (x : Warning) : (s.takeWarning x).qg = s.qg := rfl
@[simp] theorem takeWarning_td (x : Warning) : (s.takeWarning x).td = s.td := rfl
@[simp] theorem takeWarning_w (x : Warning) : (s.takeWarning x).w = s.w := rfl
@[simp] theorem takeWarning_k (x : Warning) : (s.takeWarning x).k = s.k := rfl
@[simp] theorem takeWarning_frame (x : Warning) : (s.takeWarning x).frame = s.frame := rfl
@[simp] theorem takeWarning_chan (x : Warning) : (s.takeWarning x).chan = s.chan := rfl
@[simp] theorem takeWarning_hostQ (x : Warning) : (s.takeWarning x).hostQ = s.hostQ := rfl
@[simp] theorem takeWarning_rdata (x : Warning) : (s.takeWarning x).rdata = s.rdata := rfl
@[simp] theorem takeWarning_draw (x : Warning) : (s.takeWarning x).draw = s.draw := rfl

@[simp] theorem setRead_cfg (v pos : Nat) : (s.setRead v pos).cfg = s.cfg := rfl
@[simp] theorem setRead_ctrl (v pos : Nat) : (s.setRead v pos).ctrl = s.ctrl := rfl
@[simp] theorem setRead_status (v pos : Nat) : (s.setRead v pos).status = s.status := rfl
@[simp] theorem setRead_cmd (v pos : Nat) : (s.setRead v pos).cmd = s.cmd := rfl
@[simp] theorem setRead_arg0 (v pos : Nat) : (s.setRead v pos).arg0 = s.arg0 := rfl
@[simp] theorem setRead_arg1 (v pos : Nat) : (s.setRead v pos).arg1 = s.arg1 := rfl
@[simp] theorem setRead_result (v pos : Nat) : (s.setRead v pos).result = BitVec.ofNat 32 v := rfl
@[simp] theorem setRead_bitpos (v pos : Nat) : (s.setRead v pos).bitpos = BitVec.ofNat 32 pos := rfl
@[simp] theorem setRead_bitlen (v pos : Nat) : (s.setRead v pos).bitlen = s.bitlen := rfl
@[simp] theorem setRead_fcfg (v pos : Nat) : (s.setRead v pos).fcfg = s.fcfg := rfl
@[simp] theorem setRead_seq (v pos : Nat) : (s.setRead v pos).seq = s.seq := rfl
@[simp] theorem setRead_haddr (v pos : Nat) : (s.setRead v pos).haddr = s.haddr := rfl
@[simp] theorem setRead_bsm (v pos : Nat) : (s.setRead v pos).bsm = s.bsm := rfl
@[simp] theorem setRead_sim (v pos : Nat) : (s.setRead v pos).sim = s.sim := rfl
@[simp] theorem setRead_pcm (v pos : Nat) : (s.setRead v pos).pcm = s.pcm := rfl
@[simp] theorem setRead_qg (v pos : Nat) : (s.setRead v pos).qg = s.qg := rfl
@[simp] theorem setRead_td (v pos : Nat) : (s.setRead v pos).td = s.td := rfl
@[simp] theorem setRead_w (v pos : Nat) : (s.setRead v pos).w = s.w := rfl
@[simp] theorem setRead_k (v pos : Nat) : (s.setRead v pos).k = s.k := rfl
@[simp] theorem setRead_frame (v pos : Nat) : (s.setRead v pos).frame = s.frame := rfl
@[simp] theorem setRead_chan (v pos : Nat) : (s.setRead v pos).chan = s.chan := rfl
@[simp] theorem setRead_hostQ (v pos : Nat) : (s.setRead v pos).hostQ = s.hostQ := rfl
@[simp] theorem setRead_rdata (v pos : Nat) : (s.setRead v pos).rdata = s.rdata := rfl
@[simp] theorem setRead_draw (v pos : Nat) : (s.setRead v pos).draw = s.draw := rfl

@[simp] theorem loseGrids_cfg : (s.loseGrids).cfg = s.cfg := rfl
@[simp] theorem loseGrids_ctrl : (s.loseGrids).ctrl = s.ctrl := rfl
@[simp] theorem loseGrids_status : (s.loseGrids).status = s.status := rfl
@[simp] theorem loseGrids_cmd : (s.loseGrids).cmd = s.cmd := rfl
@[simp] theorem loseGrids_arg0 : (s.loseGrids).arg0 = s.arg0 := rfl
@[simp] theorem loseGrids_arg1 : (s.loseGrids).arg1 = s.arg1 := rfl
@[simp] theorem loseGrids_result : (s.loseGrids).result = s.result := rfl
@[simp] theorem loseGrids_bitpos : (s.loseGrids).bitpos = s.bitpos := rfl
@[simp] theorem loseGrids_bitlen : (s.loseGrids).bitlen = s.bitlen := rfl
@[simp] theorem loseGrids_fcfg : (s.loseGrids).fcfg = s.fcfg := rfl
@[simp] theorem loseGrids_seq : (s.loseGrids).seq = s.seq := rfl
@[simp] theorem loseGrids_haddr : (s.loseGrids).haddr = s.haddr := rfl
@[simp] theorem loseGrids_bsm : (s.loseGrids).bsm = s.bsm := rfl
@[simp] theorem loseGrids_sim : (s.loseGrids).sim = s.sim := rfl
@[simp] theorem loseGrids_pcm : (s.loseGrids).pcm = s.pcm := rfl
@[simp] theorem loseGrids_qg : (s.loseGrids).qg = ⟨.free s.draw, []⟩ := rfl
@[simp] theorem loseGrids_td : (s.loseGrids).td = ⟨.free s.draw, []⟩ := rfl
@[simp] theorem loseGrids_w : (s.loseGrids).w = s.w := rfl
@[simp] theorem loseGrids_k : (s.loseGrids).k = s.k := rfl
@[simp] theorem loseGrids_frame : (s.loseGrids).frame = s.frame := rfl
@[simp] theorem loseGrids_chan : (s.loseGrids).chan = s.chan := rfl
@[simp] theorem loseGrids_hostQ : (s.loseGrids).hostQ = s.hostQ := rfl
@[simp] theorem loseGrids_rdata : (s.loseGrids).rdata = s.rdata := rfl
@[simp] theorem loseGrids_draw : (s.loseGrids).draw = s.draw + 1 := rfl

@[simp] theorem endFrame_cfg : (s.endFrame).cfg = s.cfg := rfl
@[simp] theorem endFrame_ctrl : (s.endFrame).ctrl = s.ctrl := rfl
@[simp] theorem endFrame_status : (s.endFrame).status = { s.status with fopen := false, ffail := false } := rfl
@[simp] theorem endFrame_cmd : (s.endFrame).cmd = s.cmd := rfl
@[simp] theorem endFrame_arg0 : (s.endFrame).arg0 = s.arg0 := rfl
@[simp] theorem endFrame_arg1 : (s.endFrame).arg1 = s.arg1 := rfl
@[simp] theorem endFrame_result : (s.endFrame).result = s.result := rfl
@[simp] theorem endFrame_bitpos : (s.endFrame).bitpos = s.bitpos := rfl
@[simp] theorem endFrame_bitlen : (s.endFrame).bitlen = s.bitlen := rfl
@[simp] theorem endFrame_fcfg : (s.endFrame).fcfg = s.fcfg := rfl
@[simp] theorem endFrame_seq : (s.endFrame).seq = s.seq := rfl
@[simp] theorem endFrame_haddr : (s.endFrame).haddr = s.haddr := rfl
@[simp] theorem endFrame_bsm : (s.endFrame).bsm = s.bsm := rfl
@[simp] theorem endFrame_sim : (s.endFrame).sim = s.sim := rfl
@[simp] theorem endFrame_pcm : (s.endFrame).pcm = s.pcm := rfl
@[simp] theorem endFrame_qg : (s.endFrame).qg = ⟨.free s.draw, []⟩ := rfl
@[simp] theorem endFrame_td : (s.endFrame).td = ⟨.free s.draw, []⟩ := rfl
@[simp] theorem endFrame_w : (s.endFrame).w = s.w := rfl
@[simp] theorem endFrame_k : (s.endFrame).k = s.k := rfl
@[simp] theorem endFrame_frame : (s.endFrame).frame = Frame.reset := rfl
@[simp] theorem endFrame_chan : (s.endFrame).chan = Vector.replicate 8 ChanFrame.empty := rfl
@[simp] theorem endFrame_hostQ : (s.endFrame).hostQ = s.hostQ := rfl
@[simp] theorem endFrame_rdata : (s.endFrame).rdata = s.rdata := rfl
@[simp] theorem endFrame_draw : (s.endFrame).draw = s.draw + 1 := rfl

@[simp] theorem commit_cfg : (s.commit).cfg = s.cfg := rfl
@[simp] theorem commit_ctrl : (s.commit).ctrl = s.ctrl := rfl
@[simp] theorem commit_status : (s.commit).status = { s.status with pcmv := true } := rfl
@[simp] theorem commit_cmd : (s.commit).cmd = s.cmd := rfl
@[simp] theorem commit_arg0 : (s.commit).arg0 = s.arg0 := rfl
@[simp] theorem commit_arg1 : (s.commit).arg1 = s.arg1 := rfl
@[simp] theorem commit_result : (s.commit).result = s.result := rfl
@[simp] theorem commit_bitpos : (s.commit).bitpos = s.bitpos := rfl
@[simp] theorem commit_bitlen : (s.commit).bitlen = s.bitlen := rfl
@[simp] theorem commit_fcfg : (s.commit).fcfg = s.fcfg := rfl
@[simp] theorem commit_seq : (s.commit).seq = s.seq := rfl
@[simp] theorem commit_haddr : (s.commit).haddr = s.haddr := rfl
@[simp] theorem commit_bsm : (s.commit).bsm = s.bsm := rfl
@[simp] theorem commit_sim : (s.commit).sim = s.sim := rfl
@[simp] theorem commit_pcm : (s.commit).pcm = s.pcm := rfl
@[simp] theorem commit_qg : (s.commit).qg = s.qg := rfl
@[simp] theorem commit_td : (s.commit).td = s.td := rfl
@[simp] theorem commit_w : (s.commit).w = s.w := rfl
@[simp] theorem commit_k : (s.commit).k = s.w := rfl
@[simp] theorem commit_frame : (s.commit).frame = s.frame := rfl
@[simp] theorem commit_chan : (s.commit).chan = s.chan := rfl
@[simp] theorem commit_hostQ : (s.commit).hostQ = s.hostQ := rfl
@[simp] theorem commit_rdata : (s.commit).rdata = s.rdata := rfl
@[simp] theorem commit_draw : (s.commit).draw = s.draw := rfl

@[simp] theorem openFrame_cfg (flb : Nat) (fcfg : Word) (indep : Bool) : (s.openFrame flb fcfg indep).cfg = s.cfg := rfl
@[simp] theorem openFrame_ctrl (flb : Nat) (fcfg : Word) (indep : Bool) : (s.openFrame flb fcfg indep).ctrl = s.ctrl := rfl
@[simp] theorem openFrame_status (flb : Nat) (fcfg : Word) (indep : Bool) : (s.openFrame flb fcfg indep).status = { s.status with fopen := true, ffail := false, pcmv := false } := rfl
@[simp] theorem openFrame_cmd (flb : Nat) (fcfg : Word) (indep : Bool) : (s.openFrame flb fcfg indep).cmd = s.cmd := rfl
@[simp] theorem openFrame_arg0 (flb : Nat) (fcfg : Word) (indep : Bool) : (s.openFrame flb fcfg indep).arg0 = s.arg0 := rfl
@[simp] theorem openFrame_arg1 (flb : Nat) (fcfg : Word) (indep : Bool) : (s.openFrame flb fcfg indep).arg1 = s.arg1 := rfl
@[simp] theorem openFrame_result (flb : Nat) (fcfg : Word) (indep : Bool) : (s.openFrame flb fcfg indep).result = s.result := rfl
@[simp] theorem openFrame_bitpos (flb : Nat) (fcfg : Word) (indep : Bool) : (s.openFrame flb fcfg indep).bitpos = 0 := rfl
@[simp] theorem openFrame_bitlen (flb : Nat) (fcfg : Word) (indep : Bool) : (s.openFrame flb fcfg indep).bitlen = BitVec.ofNat 32 (8 * s.argLen) := rfl
@[simp] theorem openFrame_fcfg (flb : Nat) (fcfg : Word) (indep : Bool) : (s.openFrame flb fcfg indep).fcfg = fcfg := rfl
@[simp] theorem openFrame_seq (flb : Nat) (fcfg : Word) (indep : Bool) : (s.openFrame flb fcfg indep).seq = s.seq := rfl
@[simp] theorem openFrame_haddr (flb : Nat) (fcfg : Word) (indep : Bool) : (s.openFrame flb fcfg indep).haddr = s.haddr := rfl
@[simp] theorem openFrame_bsm (flb : Nat) (fcfg : Word) (indep : Bool) : (s.openFrame flb fcfg indep).bsm = s.bsm := rfl
@[simp] theorem openFrame_sim (flb : Nat) (fcfg : Word) (indep : Bool) : (s.openFrame flb fcfg indep).sim = s.sim := rfl
@[simp] theorem openFrame_pcm (flb : Nat) (fcfg : Word) (indep : Bool) : (s.openFrame flb fcfg indep).pcm = s.pcm := rfl
@[simp] theorem openFrame_qg (flb : Nat) (fcfg : Word) (indep : Bool) : (s.openFrame flb fcfg indep).qg = ⟨.value 0, []⟩ := rfl
@[simp] theorem openFrame_td (flb : Nat) (fcfg : Word) (indep : Bool) : (s.openFrame flb fcfg indep).td = ⟨.free s.draw, []⟩ := rfl
@[simp] theorem openFrame_w (flb : Nat) (fcfg : Word) (indep : Bool) : (s.openFrame flb fcfg indep).w = s.k := rfl
@[simp] theorem openFrame_k (flb : Nat) (fcfg : Word) (indep : Bool) : (s.openFrame flb fcfg indep).k = s.k := rfl
@[simp] theorem openFrame_frame (flb : Nat) (fcfg : Word) (indep : Bool) : (s.openFrame flb fcfg indep).frame = ⟨flb, slotsOf flb, indep, s.argBase⟩ := rfl
@[simp] theorem openFrame_chan (flb : Nat) (fcfg : Word) (indep : Bool) : (s.openFrame flb fcfg indep).chan = Vector.replicate 8 ChanFrame.empty := rfl
@[simp] theorem openFrame_hostQ (flb : Nat) (fcfg : Word) (indep : Bool) : (s.openFrame flb fcfg indep).hostQ = s.hostQ := rfl
@[simp] theorem openFrame_rdata (flb : Nat) (fcfg : Word) (indep : Bool) : (s.openFrame flb fcfg indep).rdata = s.rdata := rfl
@[simp] theorem openFrame_draw (flb : Nat) (fcfg : Word) (indep : Bool) : (s.openFrame flb fcfg indep).draw = s.draw + 1 := rfl

/-! ### Changes of STATUS -/

variable (t : Status)

@[simp] theorem status_complete_busy : (t.complete).busy = false := rfl
@[simp] theorem status_complete_fopen : (t.complete).fopen = t.fopen := rfl
@[simp] theorem status_complete_ffail : (t.complete).ffail = t.ffail := rfl
@[simp] theorem status_complete_done : (t.complete).done = true := rfl
@[simp] theorem status_complete_err : (t.complete).err = t.err := rfl
@[simp] theorem status_complete_warn : (t.complete).warn = t.warn := rfl
@[simp] theorem status_complete_gap : (t.complete).gap = t.gap := rfl
@[simp] theorem status_complete_herr : (t.complete).herr = t.herr := rfl
@[simp] theorem status_complete_errcode : (t.complete).errcode = t.errcode := rfl
@[simp] theorem status_complete_warncode : (t.complete).warncode = t.warncode := rfl
@[simp] theorem status_complete_pcmv : (t.complete).pcmv = t.pcmv := rfl

@[simp] theorem status_fatal_busy (e : FatalError) : (t.fatal e).busy = false := rfl
@[simp] theorem status_fatal_fopen (e : FatalError) : (t.fatal e).fopen = t.fopen := rfl
@[simp] theorem status_fatal_ffail (e : FatalError) : (t.fatal e).ffail = (t.ffail || t.fopen) := rfl
@[simp] theorem status_fatal_done (e : FatalError) : (t.fatal e).done = t.done := rfl
@[simp] theorem status_fatal_err (e : FatalError) : (t.fatal e).err = true := rfl
@[simp] theorem status_fatal_warn (e : FatalError) : (t.fatal e).warn = t.warn := rfl
@[simp] theorem status_fatal_gap (e : FatalError) : (t.fatal e).gap = t.gap := rfl
@[simp] theorem status_fatal_herr (e : FatalError) : (t.fatal e).herr = t.herr := rfl
@[simp] theorem status_fatal_errcode (e : FatalError) : (t.fatal e).errcode = if t.err then t.errcode else e.code := rfl
@[simp] theorem status_fatal_warncode (e : FatalError) : (t.fatal e).warncode = t.warncode := rfl
@[simp] theorem status_fatal_pcmv (e : FatalError) : (t.fatal e).pcmv = t.pcmv := rfl

@[simp] theorem status_raiseWarning_busy (x : Warning) : (t.raiseWarning x).busy = t.busy := rfl
@[simp] theorem status_raiseWarning_fopen (x : Warning) : (t.raiseWarning x).fopen = t.fopen := rfl
@[simp] theorem status_raiseWarning_ffail (x : Warning) : (t.raiseWarning x).ffail = t.ffail := rfl
@[simp] theorem status_raiseWarning_done (x : Warning) : (t.raiseWarning x).done = t.done := rfl
@[simp] theorem status_raiseWarning_err (x : Warning) : (t.raiseWarning x).err = t.err := rfl
@[simp] theorem status_raiseWarning_warn (x : Warning) : (t.raiseWarning x).warn = true := rfl
@[simp] theorem status_raiseWarning_gap (x : Warning) : (t.raiseWarning x).gap = (t.gap || decide (x = .residualCodingUnsupported)) := rfl
@[simp] theorem status_raiseWarning_herr (x : Warning) : (t.raiseWarning x).herr = t.herr := rfl
@[simp] theorem status_raiseWarning_errcode (x : Warning) : (t.raiseWarning x).errcode = t.errcode := rfl
@[simp] theorem status_raiseWarning_warncode (x : Warning) : (t.raiseWarning x).warncode = if t.warn then t.warncode else x.code := rfl
@[simp] theorem status_raiseWarning_pcmv (x : Warning) : (t.raiseWarning x).pcmv = t.pcmv := rfl

@[simp] theorem status_w1c_busy (v : Word) : (t.w1c v).busy = t.busy := rfl
@[simp] theorem status_w1c_fopen (v : Word) : (t.w1c v).fopen = t.fopen := rfl
@[simp] theorem status_w1c_ffail (v : Word) : (t.w1c v).ffail = t.ffail := rfl
@[simp] theorem status_w1c_done (v : Word) : (t.w1c v).done = (t.done && !v.getLsbD 3) := rfl
@[simp] theorem status_w1c_err (v : Word) : (t.w1c v).err = (t.err && !v.getLsbD 4) := rfl
@[simp] theorem status_w1c_warn (v : Word) : (t.w1c v).warn = (t.warn && !v.getLsbD 5) := rfl
@[simp] theorem status_w1c_gap (v : Word) : (t.w1c v).gap = (t.gap && !v.getLsbD 6) := rfl
@[simp] theorem status_w1c_herr (v : Word) : (t.w1c v).herr = (t.herr && !v.getLsbD 7) := rfl
@[simp] theorem status_w1c_errcode (v : Word) : (t.w1c v).errcode = if v.getLsbD 4 then 0 else t.errcode := rfl
@[simp] theorem status_w1c_warncode (v : Word) : (t.w1c v).warncode = if v.getLsbD 5 then 0 else t.warncode := rfl
@[simp] theorem status_w1c_pcmv (v : Word) : (t.w1c v).pcmv = t.pcmv := rfl

/-! ### The channel records and the progress flags -/

@[simp] theorem wAt_setW (c : Fin 8) (x : ChannelState) : (s.setW c x).wAt c = x := by
  simp [State.wAt, State.setW, Vector.get_eq_getElem]

theorem wAt_setW_other (c d : Fin 8) (x : ChannelState) (h : d ≠ c) : (s.setW c x).wAt d = s.wAt d := by
  have : c.val ≠ d.val := fun e => h (Fin.ext e.symm)
  simp [State.wAt, State.setW, Vector.get_eq_getElem, this]

@[simp] theorem kAt_setK (c : Fin 8) (x : ChannelState) : (s.setK c x).kAt c = x := by
  simp [State.kAt, State.setK, Vector.get_eq_getElem]

theorem kAt_setK_other (c d : Fin 8) (x : ChannelState) (h : d ≠ c) : (s.setK c x).kAt d = s.kAt d := by
  have : c.val ≠ d.val := fun e => h (Fin.ext e.symm)
  simp [State.kAt, State.setK, Vector.get_eq_getElem, this]

@[simp] theorem chanAt_setChan (c : Fin 8) (x : ChanFrame) : (s.setChan c x).chanAt c = x := by
  simp [State.chanAt, State.setChan, Vector.get_eq_getElem]

theorem chanAt_setChan_other (c d : Fin 8) (x : ChanFrame) (h : d ≠ c) : (s.setChan c x).chanAt d = s.chanAt d := by
  have : c.val ≠ d.val := fun e => h (Fin.ext e.symm)
  simp [State.chanAt, State.setChan, Vector.get_eq_getElem, this]

@[simp] theorem chanAt_markDone (c : Fin 8) (x : Stage) :
    (s.markDone c x).chanAt c = { s.chanAt c with done := (s.chanAt c).done.add x } := by
  simp [State.markDone]

theorem chanAt_markDone_other (c d : Fin 8) (x : Stage) (h : d ≠ c) : (s.markDone c x).chanAt d = s.chanAt d := by
  simp [State.markDone, chanAt_setChan_other s c d _ h]

@[simp] theorem done_has_add (d : Done) (x : Stage) : (d.add x).has x = true := by
  cases x <;> simp [Done.add, Done.has, Vector.get_eq_getElem]

theorem done_has_add_other (d : Done) (x y : Stage) (h : y ≠ x) : (d.add x).has y = d.has y := by
  cases x <;> cases y <;>
    first
      | rfl
      | exact absurd rfl h
      | (rename_i a b
         have : a.val ≠ b.val := fun e => h (by rw [Fin.ext e])
         simp [Done.add, Done.has, Vector.get_eq_getElem, this])

@[simp] theorem done_has_empty (x : Stage) : Done.empty.has x = false := by
  cases x <;> simp [Done.empty, Done.has, Vector.get_eq_getElem]

end Sys2Proof.Laws
end

