-- ==== Sys2Proof/Laws/Commands.lean ====
section
/-! SUPPORT. How a command ends, and once for each command what its pseudocode can make of the state. -/

namespace Sys2Proof.Laws

open Sys2Proof Sys2Proof.Machine Sys2Proof.Config

/-! ### Peeling the pseudocode -/

theorem bind_ok {ε α β : Type} {x : Except ε α} {f : α → Except ε β} {r : β} :
    (x >>= f) = .ok r ↔ ∃ a, x = .ok a ∧ f a = .ok r := by
  cases x with
  | error e => simp [bind, Except.bind]
  | ok a => simp [bind, Except.bind]

@[simp] theorem pure_ok {ε α : Type} {a r : α} : (pure a : Except ε α) = .ok r ↔ r = a :=
  ⟨fun h => by cases h; rfl, fun h => by rw [h]; rfl⟩

@[simp] theorem require_ok {b : Bool} {e : FatalError} {u : Unit} : require b e = .ok u ↔ b = true := by
  unfold require raise
  split <;> simp_all

@[simp] theorem raise_ok {α : Type} {e : FatalError} {a : α} : (raise e : Except Stop α) = .ok a ↔ False := by
  simp [raise]

@[simp] theorem valueOf_ok {α : Type} {o : Option α} {a : α} : valueOf o = .ok a ↔ o = some a := by
  cases o <;> simp [valueOf]

@[simp] theorem requireOpen_ok {s : State} {u : Unit} : s.requireOpen = .ok u ↔ s.status.fopen = true := by
  simp [State.requireOpen]

/-- What `mapE` answers, entry by entry. -/
theorem mapE_ok {α β : Type} {f : α → Except Stop β} {l : List α} {r : List β} :
    mapE f l = .ok r ↔ List.Forall₂ (fun a b => f a = .ok b) l r := by
  induction l generalizing r with
  | nil => cases r <;> simp [mapE]
  | cons a l ih =>
    simp only [mapE]
    cases hf : f a with
    | error e => cases r <;> simp [hf]
    | ok b =>
      cases hm : mapE f l with
      | error e =>
        cases r with
        | nil => simp
        | cons c r => simp [hf, ← ih, hm]
      | ok bs =>
        cases r with
        | nil => simp
        | cons c r => simp [hf, ← ih, hm]

theorem mapE_length {α β : Type} {f : α → Except Stop β} {l : List α} {r : List β} (h : mapE f l = .ok r) :
    r.length = l.length := (mapE_ok.1 h).length_eq.symm

/-! ### How a command ends -/

/-- A command's outcome is a next state: its pseudocode's, completed, or the fatal error it raised. -/
theorem finish_next {s t : State} {r : Except Stop State} :
    s.finish r = .next t ↔ (∃ u, r = .ok u ∧ t = u.complete) ∨ ∃ e, r = .error (.fatal e) ∧ t = s.takeFatal e := by
  unfold State.finish
  split <;> simp [eq_comm]

/-- The three ways a command with slot fields ends in a next state: a bad slot, the discard of a failed frame, its own
pseudocode. -/
theorem command_next {s t : State} {slots : List (BitVec 4)} {body : State → Except Stop State} :
    s.command slots body = .next t ↔
      (slots.all slotOk = false ∧ t = s.takeFatal .illegalCommand) ∨
      (slots.all slotOk = true ∧ s.failedFrame = true ∧ t = s.complete) ∨
      (slots.all slotOk = true ∧ s.failedFrame = false ∧ s.finish (body s) = .next t) := by
  unfold State.command
  cases slots.all slotOk <;> cases s.failedFrame <;> simp [eq_comm]

/-- A command never faults. -/
theorem finish_no_fault {s : State} {r : Except Stop State} {f : Fault} : s.finish r ≠ .fault f := by
  unfold State.finish
  split <;> simp

theorem command_no_fault {s : State} {slots : List (BitVec 4)} {body : State → Except Stop State} {f : Fault} :
    s.command slots body ≠ .fault f := by
  unfold State.command
  split
  · split
    · simp
    · exact finish_no_fault
  · simp

/-- A command is refused only for an illegal parameter. -/
theorem finish_refused {s : State} {r : Except Stop State} {x : Refusal} :
    s.finish r = .refused x ↔ r = .error .illegalParameter ∧ x = .illegalParameter := by
  unfold State.finish
  split <;> simp_all [eq_comm]

/-- A command that runs to its end answers its state, completed. -/
theorem command_runs {s u : State} {slots : List (BitVec 4)} {body : State → Except Stop State}
    (hs : slots.all slotOk = true) (hf : s.failedFrame = false) (hb : body s = .ok u) :
    s.command slots body = .next u.complete := by
  simp [State.command, hs, hf, hb, State.finish]

/-! ### Reading bits -/

/-- A computation that never moves the cursor back or past the end of the range. -/
def Reads (s : State) {α : Type} (m : BitM α) : Prop :=
  ∀ pos a pos', pos ≤ s.bitlen.toNat → m pos = .ok (a, pos') → pos ≤ pos' ∧ pos' ≤ s.bitlen.toNat

theorem bitM_bind_ok {α β : Type} {m : BitM α} {f : α → BitM β} {pos : Nat} {r : β × Nat} :
    (m >>= f) pos = .ok r ↔ ∃ a p, m pos = .ok (a, p) ∧ f a p = .ok r := by
  show (StateT.bind m f pos) = _ ↔ _
  unfold StateT.bind
  rw [bind_ok]
  constructor
  · rintro ⟨⟨a, p⟩, h1, h2⟩; exact ⟨a, p, h1, h2⟩
  · rintro ⟨a, p, h1, h2⟩; exact ⟨⟨a, p⟩, h1, h2⟩

theorem bitM_pure_ok {α : Type} {a : α} {pos : Nat} {r : α × Nat} :
    (pure a : BitM α) pos = .ok r ↔ r = (a, pos) := by
  show (StateT.pure a pos : Except Stop (α × Nat)) = _ ↔ _
  simp [StateT.pure]

theorem bitM_stop_ok {α : Type} {e : FatalError} {pos : Nat} {r : α × Nat} :
    (BitM.stop e : BitM α) pos = .ok r ↔ False := by
  simp [BitM.stop, raise]

variable {s : State}

theorem reads_pure {α : Type} (a : α) : Reads s (pure a : BitM α) := by
  intro pos a' pos' hp h
  rw [bitM_pure_ok] at h
  cases h
  exact ⟨le_refl _, hp⟩

theorem reads_stop {α : Type} (e : FatalError) : Reads s (BitM.stop e : BitM α) := by
  intro pos a' pos' hp h
  exact (bitM_stop_ok.1 h).elim

theorem reads_bind {α β : Type} {m : BitM α} {f : α → BitM β} (hm : Reads s m) (hf : ∀ a, Reads s (f a)) :
    Reads s (m >>= f) := by
  intro pos b pos' hp h
  obtain ⟨a, p, h1, h2⟩ := bitM_bind_ok.1 h
  obtain ⟨l1, u1⟩ := hm pos a p hp h1
  obtain ⟨l2, u2⟩ := hf a p b pos' u1 h2
  exact ⟨le_trans l1 l2, u2⟩

theorem reads_getBit : Reads s (getBit s) := by
  intro pos a pos' hp h
  unfold getBit raise at h
  split at h
  · cases h; omega
  · cases h

theorem reads_readBitsFrom (n v : Nat) : Reads s (readBitsFrom s n v) := by
  induction n generalizing v with
  | zero => exact reads_pure v
  | succ n ih => exact reads_bind reads_getBit fun b => ih _

theorem reads_readBits (n : Nat) : Reads s (readBits s n) := by
  intro pos a pos' hp h
  unfold readBits raise at h
  split at h
  · exact reads_readBitsFrom n 0 pos a pos' hp h
  · cases h

theorem reads_readUnaryFrom (stop : Bool) (left count : Nat) : Reads s (readUnaryFrom s stop left count) := by
  induction left generalizing count with
  | zero => exact reads_pure count
  | succ n ih =>
    refine reads_bind reads_getBit fun b => ?_
    split
    · exact reads_pure count
    · exact ih _

theorem reads_readUnary (stop : Bool) (maxLen : Nat) : Reads s (readUnary s stop maxLen) :=
  reads_readUnaryFrom stop maxLen 0

theorem reads_readVlcFrom (t : List VlcEntry) (fuel bits len : Nat) : Reads s (readVlcFrom s t fuel bits len) := by
  induction fuel generalizing bits len with
  | zero => exact reads_stop _
  | succ n ih =>
    refine reads_bind reads_getBit fun b => ?_
    split
    · exact reads_pure _
    · split
      · exact ih _ _
      · exact reads_stop _

theorem reads_readVlc (t : Nat) : Reads s (readVlc s t) := by
  intro pos a pos' hp h
  unfold readVlc raise at h
  split at h
  · cases h
  · split at h
    · exact reads_readVlcFrom _ _ _ _ pos a pos' hp h
    · cases h

theorem reads_readEscFrom (base max fuel value : Nat) : Reads s (readEscFrom s base max fuel value) := by
  induction fuel generalizing value with
  | zero => exact reads_stop _
  | succ n ih =>
    refine reads_bind (reads_readBits _) fun chunk => ?_
    split
    · exact reads_stop _
    · refine reads_bind (reads_readBits _) fun more => ?_
      split
      · exact reads_pure _
      · split
        · exact reads_stop _
        · exact ih _

theorem reads_readEsc (base max : Nat) : Reads s (readEsc s base max) := fun pos a pos' hp h =>
  reads_readEscFrom base max _ 0 pos a pos' hp h

theorem reads_readRun (lenBits fuel len : Nat) : Reads s (readRun s lenBits fuel len) := by
  induction fuel generalizing len with
  | zero => exact reads_stop _
  | succ n ih =>
    refine reads_bind (reads_readBits _) fun inc => ?_
    split
    · exact ih _
    · exact reads_pure _

theorem reads_readSections (lenBits ms fuel b : Nat) : Reads s (readSections s lenBits ms fuel b) := by
  induction fuel generalizing b with
  | zero => exact reads_stop _
  | succ n ih =>
    unfold readSections
    split
    · refine reads_bind (reads_readBits _) fun cb => ?_
      split
      · exact reads_stop _
      · refine reads_bind (fun pos a pos' hp h => reads_readRun _ _ _ pos a pos' hp h) fun len => ?_
        split
        · exact reads_stop _
        · exact reads_bind (ih _) fun rest => reads_pure _
    · exact reads_pure _

theorem reads_readSign (v : Int) : Reads s (readSign s v) := by
  unfold readSign
  split
  · exact reads_pure _
  · exact reads_bind (reads_readBits _) fun b => reads_pure _

theorem reads_readSigns (l : List Int) : Reads s (readSigns s l) := by
  induction l with
  | nil => exact reads_pure _
  | cons v l ih => exact reads_bind (reads_readSign v) fun v' => reads_bind ih fun l' => reads_pure _

theorem reads_readEscape (v : Int) : Reads s (readEscape s v) := by
  unfold readEscape
  split
  · refine reads_bind (reads_readUnary _ _) fun n => ?_
    split
    · exact reads_stop _
    · exact reads_bind (reads_readBits _) fun w => reads_pure _
  · exact reads_pure _

theorem reads_readEscapes (l : List Int) : Reads s (readEscapes s l) := by
  induction l with
  | nil => exact reads_pure _
  | cons v l ih => exact reads_bind (reads_readEscape v) fun v' => reads_bind ih fun l' => reads_pure _

theorem reads_decodeTuple (d : CbDesc) (table : Nat) : Reads s (decodeTuple s d table) := by
  refine reads_bind (reads_readVlc _) fun sym => ?_
  split
  · exact reads_stop _
  · refine reads_bind ?_ fun v => ?_
    · unfold tupleSigns
      split
      · exact reads_pure _
      · exact reads_readSigns _
    · unfold tupleEscapes
      split
      · exact reads_readEscapes _
      · exact reads_pure _

theorem reads_readTuples (d : CbDesc) (table n : Nat) : Reads s (readTuples s d table n) := by
  induction n with
  | zero => exact reads_pure _
  | succ n ih => exact reads_bind (reads_decodeTuple _ _) fun v => reads_bind ih fun rest => reads_pure _

theorem reads_readSection (cb : Nat) (samples : List Nat) : Reads s (readSection s cb samples) := by
  unfold readSection
  split
  · exact reads_pure _
  · split
    · exact reads_stop _
    · split
      · exact reads_stop _
      · exact reads_bind (reads_readTuples _ _ _) fun v => reads_pure _

theorem reads_lift {α : Type} (r : Except Stop α) : Reads s (BitM.lift r) := by
  intro pos a pos' hp h
  cases r with
  | ok v => cases h; exact ⟨le_refl _, hp⟩
  | error e => cases h

theorem reads_readAllSections (x : ChannelState) (g : Nat) (l : List (Option Nat × List Nat)) :
    Reads s (readAllSections s x g l) := by
  induction l with
  | nil => exact reads_pure _
  | cons e l ih =>
    exact reads_bind (reads_lift _) fun cb => reads_bind (reads_readSection _ _) fun v => reads_bind ih fun rest => reads_pure _

theorem reads_readSf (a : SfAcc) : Reads s (readSf s a) := by
  refine reads_bind ?_ fun v => ?_
  · unfold readSfValue
    split
    · exact reads_bind (reads_readBits _) fun n => reads_pure _
    · exact reads_bind (reads_readVlc _) fun n => reads_pure _
  · split
    · exact reads_stop _
    · exact reads_pure _

theorem reads_readSfs (f : ChanFrame) (g : Nat) (snfp : Bool) (l : List Nat) (a : SfAcc) :
    Reads s (readSfs s f g snfp l a) := by
  induction l generalizing a with
  | nil => exact reads_pure _
  | cons b l ih =>
    unfold readSfs
    refine reads_bind (reads_lift _) fun e => ?_
    split
    · exact reads_bind (reads_readSf _) fun a => reads_bind (ih _) fun r => reads_pure _
    · split
      · exact reads_bind (reads_readVlc _) fun n => reads_bind (ih _) fun r => reads_pure _
      · exact reads_bind (ih _) fun r => reads_pure _

/-- What a reading computation run at BITPOS leaves as cursor. -/
theorem reading_ok {α : Type} {m : BitM α} (hm : Reads s m) (hb : s.bitpos.toNat ≤ s.bitlen.toNat) {a : α} {pos : Nat}
    (h : s.reading m = .ok (a, pos)) : s.bitpos.toNat ≤ pos ∧ pos ≤ s.bitlen.toNat :=
  hm s.bitpos.toNat a pos hb h

end Sys2Proof.Laws
end

