-- ==== Sys2Proof/Laws/Memory.lean ====
section
/-! SUPPORT. The memory spaces: an element reads as what was last written to it, a write leaves every other element
alone, and every operation keeps the canonical form. -/

namespace Sys2Proof.Laws

open Sys2Proof Sys2Proof.Machine Sys2Proof.Machine.Memory

variable {α : Type}

/-! ### Lists of cells -/

theorem lookup_cons_ne {i j : Nat} (h : i ≠ j) (v : α) (l : List (Nat × α)) :
    ((j, v) :: l).lookup i = l.lookup i := by
  simp only [List.lookup_cons, beq_false_of_ne h]

theorem lookup_insert_self (i : Nat) (v : α) (l : List (Nat × α)) : (Memory.insert i v l).lookup i = some v := by
  induction l with
  | nil => simp [Memory.insert]
  | cons e l ih =>
    obtain ⟨j, u⟩ := e
    simp only [Memory.insert]
    split_ifs with h1 h2
    · simp
    · simp
    · rw [lookup_cons_ne h1, ih]

theorem lookup_insert_other (i j : Nat) (v : α) (h : j ≠ i) (l : List (Nat × α)) :
    (Memory.insert i v l).lookup j = l.lookup j := by
  induction l with
  | nil => simp only [Memory.insert, lookup_cons_ne h]
  | cons e l ih =>
    obtain ⟨k, u⟩ := e
    simp only [Memory.insert]
    split_ifs with h1 h2
    · subst h1; rw [lookup_cons_ne h, lookup_cons_ne h]
    · rw [lookup_cons_ne h]
    · simp only [List.lookup_cons, ih]

theorem lookup_erase_other (i j : Nat) (h : j ≠ i) (l : List (Nat × α)) :
    (Memory.erase i l).lookup j = l.lookup j := by
  induction l with
  | nil => rfl
  | cons e l ih =>
    obtain ⟨k, u⟩ := e
    simp only [Memory.erase]
    split_ifs with h1 h2
    · subst h1; rw [lookup_cons_ne h]
    · rfl
    · simp only [List.lookup_cons, ih]

/-- Above `lo`, if there is one. -/
def Above (lo : Option Nat) (i : Nat) : Prop := ∀ k, lo = some k → k < i

theorem rising_cons (lo : Option Nat) (i : Nat) (v : α) (l : List (Nat × α)) :
    rising lo ((i, v) :: l) = true ↔ Above lo i ∧ rising (some i) l = true := by
  cases lo <;> simp [rising, Above]

theorem rising_mono {lo : Option Nat} {i : Nat} {l : List (Nat × α)} (h : Above lo i) (hr : rising (some i) l = true) :
    rising lo l = true := by
  cases l with
  | nil => cases lo <;> rfl
  | cons e l =>
    obtain ⟨j, v⟩ := e
    rw [rising_cons] at hr ⊢
    exact ⟨fun k hk => lt_trans (h k hk) (hr.1 i rfl), hr.2⟩

theorem lookup_of_rising {k : Nat} {l : List (Nat × α)} (h : rising (some k) l = true) {i : Nat} (hi : i ≤ k) :
    l.lookup i = none := by
  induction l generalizing k with
  | nil => rfl
  | cons e l ih =>
    obtain ⟨j, v⟩ := e
    rw [rising_cons] at h
    have hj : k < j := h.1 k rfl
    rw [lookup_cons_ne (by omega)]
    exact ih h.2 (by omega)

theorem lookup_erase_self (i : Nat) {lo : Option Nat} {l : List (Nat × α)} (h : rising lo l = true) :
    (Memory.erase i l).lookup i = none := by
  induction l generalizing lo with
  | nil => rfl
  | cons e l ih =>
    obtain ⟨j, v⟩ := e
    rw [rising_cons] at h
    simp only [Memory.erase]
    split_ifs with h1 h2
    · exact lookup_of_rising h.2 (le_of_eq h1)
    · rw [lookup_cons_ne h1]
      exact lookup_of_rising h.2 (by omega)
    · rw [lookup_cons_ne h1]
      exact ih h.2

theorem rising_insert (i : Nat) (v : α) {lo : Option Nat} {l : List (Nat × α)} (h : rising lo l = true)
    (hi : Above lo i) : rising lo (Memory.insert i v l) = true := by
  induction l generalizing lo with
  | nil => simp only [Memory.insert, rising_cons]; exact ⟨hi, rfl⟩
  | cons e l ih =>
    obtain ⟨j, u⟩ := e
    rw [rising_cons] at h
    simp only [Memory.insert]
    split_ifs with h1 h2
    · subst h1; rw [rising_cons]; exact ⟨hi, h.2⟩
    · rw [rising_cons, rising_cons]
      exact ⟨hi, fun k hk => by cases hk; exact h2, h.2⟩
    · rw [rising_cons]
      exact ⟨h.1, ih h.2 fun k hk => by cases hk; omega⟩

theorem rising_erase (i : Nat) {lo : Option Nat} {l : List (Nat × α)} (h : rising lo l = true) :
    rising lo (Memory.erase i l) = true := by
  induction l generalizing lo with
  | nil => exact h
  | cons e l ih =>
    obtain ⟨j, u⟩ := e
    have h' := h
    rw [rising_cons] at h
    simp only [Memory.erase]
    split_ifs with h1 h2
    · exact rising_mono h.1 h.2
    · exact h'
    · rw [rising_cons]; exact ⟨h.1, ih h.2⟩

theorem mem_insert {i : Nat} {v : α} {l : List (Nat × α)} {e : Nat × α} (h : e ∈ Memory.insert i v l) :
    e = (i, v) ∨ e ∈ l := by
  induction l with
  | nil => exact Or.inl (by simpa [Memory.insert] using h)
  | cons x l ih =>
    obtain ⟨j, u⟩ := x
    simp only [Memory.insert] at h
    split_ifs at h with h1 h2
    · rcases List.mem_cons.1 h with h | h
      · exact Or.inl h
      · exact Or.inr (List.mem_cons_of_mem _ h)
    · rcases List.mem_cons.1 h with h | h
      · exact Or.inl h
      · exact Or.inr h
    · rcases List.mem_cons.1 h with h | h
      · exact Or.inr (h ▸ List.mem_cons_self)
      · rcases ih h with h | h
        · exact Or.inl h
        · exact Or.inr (List.mem_cons_of_mem _ h)

theorem mem_erase {i : Nat} {l : List (Nat × α)} {e : Nat × α} (h : e ∈ Memory.erase i l) : e ∈ l := by
  induction l with
  | nil => exact h
  | cons x l ih =>
    obtain ⟨j, u⟩ := x
    simp only [Memory.erase] at h
    split_ifs at h with h1 h2
    · exact List.mem_cons_of_mem _ h
    · exact h
    · rcases List.mem_cons.1 h with h | h
      · exact h ▸ List.mem_cons_self
      · exact List.mem_cons_of_mem _ (ih h)

/-! ### The canonical form -/

variable [DecidableEq α]

theorem wf_iff (m : Memory α) :
    m.wf = true ↔ rising none m.cells = true ∧ ∀ e ∈ m.cells, m.fill ≠ .value e.2 := by
  simp [Memory.wf, List.all_eq_true]

/-- A space with nothing listed is in the canonical form. -/
@[simp] theorem wf_empty (f : Fill α) : (⟨f, []⟩ : Memory α).wf = true := by simp [wf_iff, rising]

/-- A write keeps the canonical form. -/
theorem wf_set {m : Memory α} (h : m.wf = true) (i : Nat) (v : α) : (m.set i v).wf = true := by
  rw [wf_iff] at h
  unfold Memory.set
  split_ifs with hv
  · exact (wf_iff _).2 ⟨rising_erase i h.1, fun e he => h.2 e (mem_erase he)⟩
  · refine (wf_iff _).2 ⟨rising_insert i v h.1 (fun k hk => by cases hk), fun e he => ?_⟩
    rcases mem_insert he with rfl | he
    · exact hv
    · exact h.2 e he

theorem wf_setAll {m : Memory α} (h : m.wf = true) (l : List (Nat × α)) : (m.setAll l).wf = true := by
  induction l generalizing m with
  | nil => exact h
  | cons e l ih => exact ih (wf_set h e.1 e.2)

theorem wf_setRun {m : Memory α} (h : m.wf = true) (base : Nat) (l : List α) : (m.setRun base l).wf = true := by
  induction l generalizing m base with
  | nil => exact h
  | cons v l ih => exact ih (wf_set h base v) (base + 1)

/-! ### Reading after writing -/

@[simp] theorem fill_set (m : Memory α) (i : Nat) (v : α) : (m.set i v).fill = m.fill := by
  unfold Memory.set; split_ifs <;> rfl

/-- An element reads as what was written to it. -/
theorem read_set_self (any : Nat → Nat → α) {m : Memory α} (h : m.wf = true) (i : Nat) (v : α) :
    (m.set i v).read any i = v := by
  rw [wf_iff] at h
  unfold Memory.set Memory.read
  split_ifs with hv
  · simp only [lookup_erase_self i h.1, hv]
  · simp only [lookup_insert_self]

/-- A write leaves every other element alone. -/
theorem read_set_other (any : Nat → Nat → α) (m : Memory α) (i j : Nat) (v : α) (h : j ≠ i) :
    (m.set i v).read any j = m.read any j := by
  unfold Memory.set Memory.read
  split_ifs with hv
  · simp only [lookup_erase_other i j h]
  · simp only [lookup_insert_other i j v h]

/-- A run of writes leaves every element outside the run alone. -/
theorem read_setRun_other (any : Nat → Nat → α) (m : Memory α) (base : Nat) (l : List α) (j : Nat)
    (h : j < base ∨ base + l.length ≤ j) : (m.setRun base l).read any j = m.read any j := by
  induction l generalizing m base with
  | nil => rfl
  | cons v l ih =>
    simp only [List.length_cons] at h
    simp only [Memory.setRun]
    rw [ih (m.set base v) (base + 1) (by omega), read_set_other any m base j v (by omega)]

/-- A run of writes puts its k-th value into the k-th element of the run. -/
theorem read_setRun_self (any : Nat → Nat → α) {m : Memory α} (hm : m.wf = true) (base : Nat) (l : List α) (k : Nat)
    (h : k < l.length) : (m.setRun base l).read any (base + k) = l[k] := by
  induction l generalizing m base k with
  | nil => simp at h
  | cons v l ih =>
    simp only [Memory.setRun]
    cases k with
    | zero =>
      rw [read_setRun_other any _ _ _ _ (by omega)]
      exact read_set_self any hm base v
    | succ k =>
      have := ih (wf_set hm base v) (base + 1) k (by simpa using h)
      rw [show base + (k + 1) = base + 1 + k by omega, this]
      rfl

/-- Writes leave every element none of them names alone. -/
theorem read_setAll_other (any : Nat → Nat → α) (m : Memory α) (l : List (Nat × α)) (j : Nat)
    (h : ∀ e ∈ l, e.1 ≠ j) : (m.setAll l).read any j = m.read any j := by
  induction l generalizing m with
  | nil => rfl
  | cons e l ih =>
    have := ih (m.set e.1 e.2) fun x hx => h x (List.mem_cons_of_mem _ hx)
    rw [show m.setAll (e :: l) = (m.set e.1 e.2).setAll l from rfl, this]
    exact read_set_other any m e.1 j e.2 (h e List.mem_cons_self).symm

end Sys2Proof.Laws
end

