-- ==== Sys2Proof/Laws/Bodies.lean ====
section
/-! SUPPORT. Once for each command: if its pseudocode answers a state, which checks held and what that state is. -/

namespace Sys2Proof.Laws

open Sys2Proof Sys2Proof.Machine Sys2Proof.Config

/-! ### Control -/

/-- CHRESET (40_control.md R161). -/
theorem chresetBody_ok {c : Fin 8} {s u : State} (h : chresetBody c s = .ok u) :
    (s.status.fopen = true ∧ u = s.setW c (ChannelState.reset s.cfg)) ∨
    (s.status.fopen = false ∧
      u = (s.setK c (ChannelState.reset s.cfg)).setW c (ChannelState.reset s.cfg)) := by
  unfold chresetBody at h
  dsimp only at h
  split at h <;> cases h <;> simp_all

/-- FBEGIN (40_control.md R162): its checks and its state. -/
theorem fbeginBody_ok {f m : BitVec 4} {d : BitVec 2} {indep seqp : Bool} {s u : State} :
    fbeginBody f m d indep seqp s = .ok u ↔
      s.status.fopen = false ∧ f.toNat ≤ 8 ∧ s.argBase + s.argLen ≤ bsmBytes ∧
      (seqp = true → s.argSeq < 2 ^ seqBits) ∧
      u = (if seqp then (s.openFrame (flbTable.getD f.toNat 0) (0#21 ++ BitVec.ofBool indep ++ d ++ m ++ f) indep).seqCheck
            s.argSeq
          else s.openFrame (flbTable.getD f.toNat 0) (0#21 ++ BitVec.ofBool indep ++ d ++ m ++ f) indep) := by
  unfold fbeginBody
  simp only [bind_ok, require_ok, pure_ok]
  constructor
  · rintro ⟨_, h1, _, h2, _, h3, _, h4, rfl⟩
    refine ⟨by simpa using h1, by simpa using h2, by simpa using h3, ?_, rfl⟩
    intro hq; subst hq; simpa using h4
  · rintro ⟨h1, h2, h3, h4, rfl⟩
    refine ⟨(), by simpa using h1, (), by simpa using h2, (), by simpa using h3, (), ?_, rfl⟩
    cases seqp
    · rfl
    · simpa using h4 rfl

/-- FCOMMIT (40_control.md R164). -/
theorem fcommitBody_ok {s u : State} :
    fcommitBody s = .ok u ↔
      s.status.fopen = true ∧
        ((s.status.ffail = true ∧ u = s.endFrame) ∨
          (s.status.ffail = false ∧ s.pipelinesComplete = true ∧ u = s.commit.endFrame)) := by
  unfold fcommitBody
  cases s.status.ffail <;> simp only [bind_ok, requireOpen_ok, require_ok, pure_ok, if_true, Bool.false_eq_true, if_false] <;> simp

/-- FABORT (40_control.md R165). -/
theorem fabortBody_ok {s u : State} : fabortBody s = .ok u ↔ s.status.fopen = true ∧ u = s.endFrame := by
  unfold fabortBody
  simp only [bind_ok, requireOpen_ok, pure_ok]
  simp

/-- SETLAYOUT (40_control.md R166). -/
theorem setlayoutBody_ok {c : Fin 8} {s u : State} :
    setlayoutBody c s = .ok u ↔
      s.status.fopen = true ∧ 1 ≤ s.simWord c Sim.wlNgroups ∧ s.simWord c Sim.wlNgroups ≤ 16 ∧
      ∃ gs, layoutGroups s c (s.simWord c Sim.wlNgroups).toNat 0 0 = .ok gs ∧
        u = (s.setW c ((s.wAt c).withLayout s.cfg s.frame.flb gs)).markDone c .layout := by
  unfold setlayoutBody
  simp only [bind_ok, requireOpen_ok, require_ok, pure_ok]
  simp [and_assoc]

/-! ### BitReader -/

/-- A BitReader command (41_bitreader.md R190). -/
theorem readCommand_ok {ok : Bool} {m : State → BitM Nat} {s u : State} :
    readCommand ok m s = .ok u ↔
      s.status.fopen = true ∧ ok = true ∧ ∃ v pos, s.reading (m s) = .ok (v, pos) ∧ u = s.setRead v pos := by
  unfold readCommand
  simp only [bind_ok, requireOpen_ok, require_ok, pure_ok]
  simp

/-! ### Spectral front end -/

/-- The opening checks of a group's command. -/
theorem requireGroup_ok {s : State} {c : Fin 8} {g : Nat} {l : List Stage} {x : Unit} :
    s.requireGroup c g l = .ok x ↔
      s.status.fopen = true ∧ g < (s.wAt c).ngroups ∧ l.all (s.done c) = true := by
  unfold State.requireGroup
  simp [bind_ok]

/-- SECT (42_spectral.md R210). -/
theorem sectBody_ok {c : Fin 8} {g : Fin 16} {n : Nat} {s u : State} :
    sectBody c g n s = .ok u ↔
      s.status.fopen = true ∧ g.val < (s.wAt c).ngroups ∧ s.done c .layout = true ∧ n ≠ 0 ∧
      ∃ cbs pos, s.reading (fun p => readSections s n ((s.wAt c).bands g) (s.bitFuel p) 0 p) = .ok (cbs, pos) ∧
        u = (({ s with bitpos := BitVec.ofNat 32 pos }.setChan c
          { s.chanAt c with cb := Tab.put (s.chanAt c).cb (indexed (band g 0) cbs) }).markDone c (.sect g)) := by
  unfold sectBody
  simp only [bind_ok, require_ok, requireGroup_ok, pure_ok]
  simp [and_assoc]

/-- SPEC (42_spectral.md R214). -/
theorem specBody_ok {c : Fin 8} {g : Fin 16} {s u : State} (h : specBody c g s = .ok u) :
    s.status.fopen = true ∧ g.val < (s.wAt c).ngroups ∧ s.done c (.sect g) = true ∧
    ∃ vals pos q mags,
      s.reading (readAllSections s (s.wAt c) g (sectionsOf ((List.range ((s.wAt c).bands g)).map
        (fun b => (b, (s.chanAt c).cb.at? (band g b)))))) = .ok (vals, pos) ∧
      u = (({ s with bitpos := BitVec.ofNat 32 pos }.setChan c
        { s.chanAt c with q := q, maxMag := Tab.put (s.chanAt c).maxMag (indexed (band g 0) mags) }).markDone c
          (.spec g)) := by
  unfold specBody at h
  simp only [bind_ok, requireGroup_ok] at h
  obtain ⟨_, ⟨h1, h2, h3⟩, ⟨vals, pos⟩, hr, mags, hm, hu⟩ := h
  simp only [pure_ok] at hu
  exact ⟨h1, h2, by simpa using h3, vals, pos, _, mags, hr, hu⟩

/-- SF (42_spectral.md R218). -/
theorem sfBody_ok {c : Fin 8} {g : Fin 16} {snfp : Bool} {s u : State} (h : sfBody c g snfp s = .ok u) :
    s.status.fopen = true ∧ g.val < (s.wAt c).ngroups ∧ (sfStages g).all (s.done c) = true ∧
    ∃ start, ∃ r : List (Option Int × Option Int) × SfAcc, ∃ pos,
      sfStart s (s.chanAt c) g = .ok start ∧
      s.reading (readSfs s (s.chanAt c) g snfp (List.range ((s.wAt c).bands g)) start) = .ok (r, pos) ∧
      u = (({ s with bitpos := BitVec.ofNat 32 pos }.setChan c
        { s.chanAt c with
          sf := Tab.put (s.chanAt c).sf (indexed (band g 0) (List.map Prod.fst r.1))
          snf := Tab.put (s.chanAt c).snf (indexed (band g 0) (List.map Prod.snd r.1))
          sfFirst := some r.2.first
          sfAcc := some r.2.acc
          snfAcc := some r.2.snf }).markDone c (.sf g)) := by
  unfold sfBody at h
  simp only [bind_ok, requireGroup_ok] at h
  obtain ⟨_, ⟨h1, h2, h3⟩, start, hs, ⟨r, pos⟩, hr, hu⟩ := h
  simp only [pure_ok] at hu
  exact ⟨h1, h2, h3, start, r, pos, hs, hr, hu⟩

/-- ARITH (42_spectral.md R222). -/
theorem arithBody_ok {c : Fin 8} {g : Fin 16} {s u : State} (h : arithBody c g s = .ok u) :
    s.status.fopen = true ∧ g.val < (s.wAt c).ngroups ∧ s.done c .layout = true ∧
    s.bitpos.toNat + s.arg0.toNat ≤ s.bitlen.toNat ∧
    ∃ f : ChanFrame,
      f.done = ((s.chanAt c).done.add (.sect g)).add (.spec g) ∧
      f = { s.chanAt c with cb := f.cb, maxMag := f.maxMag, q := f.q, done := f.done } ∧
      u = ({ s with bitpos := s.bitpos + s.arg0 }.setChan c f).takeWarning .residualCodingUnsupported := by
  unfold arithBody at h
  simp only [bind_ok, requireGroup_ok, require_ok] at h
  obtain ⟨_, ⟨h1, h2, h3⟩, _, h4, hu⟩ := h
  simp only [pure_ok] at hu
  exact ⟨h1, h2, by simpa using h3, by simpa using h4, _, rfl, rfl, hu⟩

/-- DEQ (42_spectral.md R226). -/
theorem deqBody_ok {c : Fin 8} {g : Fin 16} {s u : State} :
    deqBody c g s = .ok u ↔
      s.status.fopen = true ∧ g.val < (s.wAt c).ngroups ∧ s.done c (.sf g) = true ∧
      ∃ coefs, mapE (coefOf (s.wAt c) (s.chanAt c)) ((s.wAt c).groupSamples g) = .ok coefs ∧
        u = (s.setChan c { s.chanAt c with coef := Tab.put (s.chanAt c).coef coefs }).markDone c (.deq g) := by
  unfold deqBody
  simp only [bind_ok, requireGroup_ok, pure_ok]
  simp [and_assoc]

/-! ### Stereo and transform -/

/-- STEREO (43_stereo_imdct.md R250). -/
theorem stereoBody_ok {c c2 : Fin 8} {s u : State} (h : stereoBody c c2 s = .ok u) :
    s.status.fopen = true ∧ c ≠ c2 ∧ s.requireStereo c = .ok () ∧ s.requireStereo c2 = .ok () ∧
    layoutsAgree (s.wAt c) (s.wAt c2) = true ∧
    0 ≤ s.simWord c Sim.stMode ∧ s.simWord c Sim.stMode ≤ 3 ∧
    ∃ new, stereoGroups s c c2 (s.simWord c Sim.stMode) (List.range (s.wAt c).ngroups) 0 = .ok new ∧
      u = ((((s.setChan c { s.chanAt c with coef := Tab.put (s.chanAt c).coef (new.map (fun e => (e.1, e.2.1))) }).setChan
          c2 { s.chanAt c2 with coef := Tab.put (s.chanAt c2).coef (new.map (fun e => (e.1, e.2.2))) }).markDone c
            .stereo).markDone c2 .stereo) := by
  unfold stereoBody at h
  simp only [bind_ok, requireOpen_ok, require_ok] at h
  obtain ⟨_, h1, _, h2, _, h3, _, h4, _, h5, _, h6, new, hn, hu⟩ := h
  simp only [pure_ok] at hu
  simp only [Bool.and_eq_true, decide_eq_true_eq] at h6
  exact ⟨h1, by simpa using h2, h3, h4, h5, h6.1, h6.2, new, hn, hu⟩

/-- The checks of IMDCT (43_stereo_imdct.md R256). -/
theorem requireImdct_ok {c : Fin 8} {s : State} {v : Unit} :
    s.requireImdct c = .ok v ↔
      s.status.fopen = true ∧ s.allDequantized c = true ∧ s.done c .imdct = false ∧
      ((s.wAt c).nprev = 0 ∨ (s.wAt c).flbPrev = s.frame.flb) := by
  unfold State.requireImdct
  simp only [bind_ok, requireOpen_ok, require_ok]
  simp only [exists_const, Bool.not_eq_true', Bool.and_eq_false_imp, bne_iff_ne, bne_eq_false_iff_eq, ne_eq, or_iff_not_imp_left]

/-- IMDCT (43_stereo_imdct.md R256). -/
theorem imdctBody_ok {c : Fin 8} {s u : State} :
    imdctBody c s = .ok u ↔
      s.status.fopen = true ∧ s.allDequantized c = true ∧ s.done c .imdct = false ∧
      ((s.wAt c).nprev = 0 ∨ (s.wAt c).flbPrev = s.frame.flb) ∧
      ∃ x td, imdctWindows s.frame.flb (c.val * pcmStride) (s.chanAt c).coef (s.wAt c).wins (s.wAt c, s.td)
          = .ok (x, td) ∧
        u = ({ s with td := td }.setW c { x with flbPrev := s.frame.flb }).markDone c .imdct := by
  unfold imdctBody
  simp only [bind_ok, requireImdct_ok, pure_ok]
  simp [and_assoc, Prod.exists]


/-! ### Filterbank -/

theorem requireSlots_ok {s : State} {n : Nat} : s.requireSlots = .ok n ↔ s.frame.numTs = some n := by
  unfold State.requireSlots
  split <;> simp_all

/-- The checks of QMFA (44_qmf.md R280). -/
theorem requireQmfa_ok {c : Fin 8} {s : State} {n : Nat} :
    s.requireQmfa c = .ok n ↔
      s.status.fopen = true ∧ s.done c .imdct = true ∧ s.done c .qmfa = false ∧ s.frame.numTs = some n := by
  unfold State.requireQmfa
  simp [bind_ok, requireSlots_ok, and_assoc]

/-- QMFA (44_qmf.md R280, R282). -/
theorem qmfaBody_ok {c : Fin 8} {s u : State} :
    qmfaBody c s = .ok u ↔
      s.status.fopen = true ∧ s.done c .imdct = true ∧ s.done c .qmfa = false ∧
      ∃ numTs input, s.frame.numTs = some numTs ∧ mapE (s.tdSlot c.val) (List.range numTs) = .ok input ∧
        u = (((({ s with qg := writeRows s.qg c.val 0 (analyse s.cfg.qmfWin (s.wAt c).qa input).2 }).setW c
            { s.wAt c with
              qa := (analyse s.cfg.qmfWin (s.wAt c).qa input).1
              qhist := ((s.wAt c).qhist ++ (analyse s.cfg.qmfWin (s.wAt c).qa input).2).drop numTs }).setChan c
            { s.chanAt c with
              qlow := some ((s.wAt c).qhist ++ (analyse s.cfg.qmfWin (s.wAt c).qa input).2) }).markDone c .qmfa) := by
  unfold qmfaBody
  simp only [bind_ok, requireQmfa_ok, pure_ok]
  constructor
  · rintro ⟨n, ⟨h1, h2, h3, hn⟩, input, hi, rfl⟩
    exact ⟨h1, h2, h3, n, input, hn, hi, rfl⟩
  · rintro ⟨h1, h2, h3, n, input, hn, hi, rfl⟩
    exact ⟨n, ⟨h1, h2, h3, hn⟩, input, hi, rfl⟩

/-- The checks of QMFS (44_qmf.md R284). -/
theorem requireQmfs_ok {c : Fin 8} {s : State} {n : Nat} :
    s.requireQmfs c = .ok n ↔
      s.status.fopen = true ∧ s.done c .qmfa = true ∧ s.done c .qmfs = false ∧
      (s.done c .axcfg = true → s.done c .axasm = true) ∧ s.frame.numTs = some n := by
  unfold State.requireQmfs
  simp only [bind_ok, requireOpen_ok, require_ok, requireSlots_ok, exists_const, Bool.and_eq_true, Bool.not_eq_true',
    Bool.or_eq_true, and_assoc]
  cases s.done c .axcfg <;> simp

/-- QMFS (44_qmf.md R284). -/
theorem qmfsBody_ok {c : Fin 8} {s u : State} :
    qmfsBody c s = .ok u ↔
      s.status.fopen = true ∧ s.done c .qmfa = true ∧ s.done c .qmfs = false ∧
      (s.done c .axcfg = true → s.done c .axasm = true) ∧
      ∃ numTs, s.frame.numTs = some numTs ∧
        u = ({ s with
                pcm := s.pcm.setRun (c.val * pcmStride)
                  (synthesise s.cfg.qmfWin (s.wAt c).qs ((List.range numTs).map (s.gridRow c.val))).2 }.setW c
              { s.wAt c with
                qs := (synthesise s.cfg.qmfWin (s.wAt c).qs ((List.range numTs).map (s.gridRow c.val))).1 }).markDone c
              .qmfs := by
  unfold qmfsBody
  simp only [bind_ok, requireQmfs_ok, pure_ok]
  constructor
  · rintro ⟨n, ⟨h1, h2, h3, h4, hn⟩, rfl⟩
    exact ⟨h1, h2, h3, h4, n, hn, rfl⟩
  · rintro ⟨h1, h2, h3, h4, n, hn, rfl⟩
    exact ⟨n, ⟨h1, h2, h3, h4, hn⟩, rfl⟩

/-! ### ASPX -/

/-- ASPXCFG (45_aspx_tables.md R300). -/
theorem aspxcfgBody_ok {c : Fin 8} {s u : State} :
    aspxcfgBody c s = .ok u ↔
      s.status.fopen = true ∧ s.done c .qmfa = true ∧ s.done c .axcfg = false ∧
      ∃ x, s.configuredTables c = .ok x ∧
        u = (s.setW c { x with
          masterResetPending := s.resetPending c
          cfgPrev := if s.frame.indep then some (s.aspxConfig c) else x.cfgPrev }).markDone c .axcfg := by
  unfold aspxcfgBody
  simp only [bind_ok, requireOpen_ok, require_ok, pure_ok]
  simp [and_assoc]

/-- ASPXENV (45_aspx_tables.md R320): its checks, and what it changes. -/
theorem aspxenvBody_ok {c : Fin 8} {s u : State} (h : aspxenvBody c s = .ok u) :
    s.status.fopen = true ∧ s.done c .axcfg = true ∧ s.done c .axenv = false ∧
    ∃ a sig noise x f,
      s.qDiv c = .ok a ∧
      (1 ≤ s.simWord c Sim.axNumEnv ∧ s.simWord c Sim.axNumEnv ≤ maxEnv) ∧
      (1 ≤ s.simWord c Sim.axNumNoise ∧ s.simWord c Sim.axNumNoise ≤ maxNoiseEnv ∧
        s.simWord c Sim.axNumNoise ≤ s.simWord c Sim.axNumEnv) ∧
      s.gridOk c (s.simWord c Sim.axNumEnv).toNat (s.simWord c Sim.axNumNoise).toNat = true ∧
      decodeSignal s c a (s.simWord c Sim.axNumEnv).toNat 0 (fun i => (s.wAt c).qscfPrev[i]?) (s.wAt c).freqResPrev
        = .ok sig ∧
      decodeNoise s c (groups (s.wAt c).sbgNoise) (s.simWord c Sim.axNumNoise).toNat 0
        (fun j => (s.wAt c).qnoisePrev[j]?) = .ok noise ∧
      x = { s.wAt c with qscfPrev := x.qscfPrev, freqResPrev := x.freqResPrev, qnoisePrev := x.qnoisePrev } ∧
      f = { s.chanAt c with
        qscf := Tab.put (s.chanAt c).qscf (rowEntries maxSbg 0 sig)
        qnoise := Tab.put (s.chanAt c).qnoise (rowEntries maxNoiseSbg 0 noise) } ∧
      u = ((s.setW c x).setChan c f).markDone c .axenv := by
  unfold aspxenvBody at h
  simp only [bind_ok, requireOpen_ok, require_ok] at h
  obtain ⟨_, h1, _, h2, a, ha, _, h3, _, h4, _, h5, sig, hs, noise, hn, hu⟩ := h
  simp only [pure_ok] at hu
  simp only [Bool.and_eq_true, Bool.not_eq_true', decide_eq_true_eq] at h2 h3 h4
  exact ⟨h1, h2.1, h2.2, a, sig, noise, _, _, ha, h3, ⟨h4.1.1, h4.1.2, h4.2⟩, h5, hs, hn, rfl, rfl, hu⟩

/-- ASPXHF (46_aspx_synthesis.md R340): its checks, and what it changes. -/
theorem aspxhfBody_ok {c : Fin 8} {s u : State} (h : aspxhfBody c s = .ok u) :
    s.status.fopen = true ∧ s.done c .axenv = true ∧ s.done c .axhf = false ∧
    ∃ modes numTs qlow alphas x f,
      mapE (fun j => invfMode (s.simWord c (Sim.axInvfMode j))) (List.range (groups (s.wAt c).sbgNoise)) = .ok modes ∧
      s.frame.numTs = some numTs ∧ (s.chanAt c).qlow = some qlow ∧
      mapE (predictor s.cfg qlow numTs) (List.range (s.wAt c).sbx) = .ok alphas ∧
      x = { s.wAt c with chirpPrev := x.chirpPrev, invfPrev := x.invfPrev, alphaPrev := x.alphaPrev } ∧
      f = { s.chanAt c with qhigh := f.qhigh, chirp := f.chirp } ∧
      u = ((s.setW c x).setChan c f).markDone c .axhf := by
  unfold aspxhfBody at h
  simp only [bind_ok, requireOpen_ok, require_ok, valueOf_ok] at h
  obtain ⟨_, h1, _, h2, modes, hm, numTs, hn, qlow, hq, alphas, ha, cols, hc, hu⟩ := h
  simp only [pure_ok] at hu
  simp only [Bool.and_eq_true, Bool.not_eq_true'] at h2
  exact ⟨h1, h2.1, h2.2, modes, numTs, qlow, alphas, _, _, hm, hn, hq, ha, rfl, rfl, hu⟩

/-- The levels of an envelope depend on its subbands and the slot's records alone (60_exceptions.md R393). -/
theorem envelopeLevels_congr {s t : State} {c : Fin 8} (hw : s.wAt c = t.wAt c) (hf : s.chanAt c = t.chanAt c) (l : Nat)
    (lim : List Nat) (bands : List Band) : envelopeLevels s c l lim bands = envelopeLevels t c l lim bands := by
  simp only [envelopeLevels, State.freeLevel, hw, hf]

/-- ASPXGAIN (46_aspx_synthesis.md R350): its checks, and what it changes. -/
theorem aspxgainBody_ok {c : Fin 8} {s u : State} (h : aspxgainBody c s = .ok u) :
    s.status.fopen = true ∧ s.done c .axhf = true ∧ s.done c .axgain = false ∧
    ∃ a pair tones levels f,
      s.qDiv c = .ok a ∧ balanceSetup s c a = .ok pair ∧ placeTones s c = .ok tones ∧
      mapE (gainEnvelope s c pair a tones) (List.range (min (s.simWord c Sim.axNumEnv).toNat 6)) = .ok levels ∧
      f = { s.chanAt c with
        toneAt := some tones
        gainS := Tab.put (s.chanAt c).gainS (levelEntries (·.1) 0 levels)
        lvlN := Tab.put (s.chanAt c).lvlN (levelEntries (·.2.1) 0 levels)
        lvlT := Tab.put (s.chanAt c).lvlT (levelEntries (·.2.2) 0 levels) } ∧
      u = (s.setChan c f).markDone c .axgain := by
  unfold aspxgainBody at h
  simp only [bind_ok, requireOpen_ok, require_ok] at h
  obtain ⟨_, h1, _, h2, a, ha, pair, hp, tones, ht, levels, hl, hu⟩ := h
  simp only [pure_ok] at hu
  simp only [Bool.and_eq_true, Bool.not_eq_true'] at h2
  exact ⟨h1, h2.1, h2.2, a, pair, tones, levels, _, ha, hp, ht, hl, rfl, hu⟩

/-- The checks of ASPXASM (46_aspx_synthesis.md R365). -/
theorem requireAspxasm_ok {c : Fin 8} {s : State} {n : Nat} :
    s.requireAspxasm c = .ok n ↔
      s.status.fopen = true ∧ s.done c .axgain = true ∧ s.done c .axasm = false ∧ s.frame.numTs = some n := by
  unfold State.requireAspxasm
  simp [bind_ok, and_assoc]

/-- ASPXASM (46_aspx_synthesis.md R365). -/
theorem aspxasmBody_ok {c : Fin 8} {s u : State} :
    aspxasmBody c s = .ok u ↔
      s.status.fopen = true ∧ s.done c .axgain = true ∧ s.done c .axasm = false ∧
      ∃ numTs x qg, s.frame.numTs = some numTs ∧
        assembleSlots s c (List.range numTs) (s.wAt c, s.qg) = .ok (x, qg) ∧
        u = ({ s with qg := qg }.setW c x).markDone c .axasm := by
  unfold aspxasmBody
  simp only [bind_ok, requireAspxasm_ok, pure_ok]
  simp [and_assoc, Prod.exists]

/-! ### What the loops over windows and timeslots keep -/

/-- The windows of IMDCT: TD keeps its form, and the record keeps all but acc, tail and nprev. -/
theorem imdctWindows_ok {flb base : Nat} {coef : Tab Real32 2048} {l : List Window} {x y : ChannelState}
    {m td : Memory Word} (h : imdctWindows flb base coef l (x, m) = .ok (y, td)) :
    (m.wf = true → td.wf = true) ∧ y = { x with acc := y.acc, tail := y.tail, nprev := y.nprev } := by
  induction l generalizing x m with
  | nil =>
    simp only [imdctWindows, Except.ok.injEq, Prod.mk.injEq] at h
    obtain ⟨rfl, rfl⟩ := h
    exact ⟨id, rfl⟩
  | cons w l ih =>
    simp only [imdctWindows, bind_ok] at h
    obtain ⟨coefs, _, h⟩ := h
    obtain ⟨h1, h2⟩ := ih h
    refine ⟨fun hm => h1 (wf_setRun hm _ _), ?_⟩
    obtain ⟨a, b, n, hx⟩ : ∃ a b n, (imdctWindow flb x w.len coefs.toArray).1 = { x with acc := a, tail := b, nprev := n } :=
      ⟨_, _, _, rfl⟩
    rw [hx] at h2
    exact h2

/-- The rows of QMFA keep the form of QG. -/
theorem wf_writeRows {m : Memory Word} (h : m.wf = true) (c ts : Nat) (l : List Slot) :
    (writeRows m c ts l).wf = true := by
  induction l generalizing m ts with
  | nil => exact h
  | cons row l ih => exact ih (wf_setRun h _ _) (ts + 1)

theorem analyse_length (win qa : Vector Real32 640) (l : List (List Real32)) :
    (analyse win qa l).2.length = l.length := by
  induction l generalizing qa with
  | nil => rfl
  | cons x l ih => simp [analyse, ih]

theorem synthesise_length (win : Vector Real32 640) (qs : Vector Real32 1280) (l : List Slot) :
    (synthesise win qs l).2.length = 64 * l.length := by
  induction l generalizing qs with
  | nil => rfl
  | cons x l ih =>
    simp only [synthesise, List.length_append, List.length_cons, ih, synthesisOut, List.length_map, List.length_range]
    omega

/-- The timeslots of ASPXASM: QG keeps its form, and the record keeps all but its two counters. -/
theorem assembleSlots_ok {s : State} {c : Fin 8} {l : List Nat} {x y : ChannelState} {m qg : Memory Word}
    (h : assembleSlots s c l (x, m) = .ok (y, qg)) :
    (m.wf = true → qg.wf = true) ∧ y = { x with noiseIdx := y.noiseIdx, sineIdx := y.sineIdx } := by
  induction l generalizing x m with
  | nil =>
    simp only [assembleSlots, Except.ok.injEq, Prod.mk.injEq] at h
    obtain ⟨rfl, rfl⟩ := h
    exact ⟨id, rfl⟩
  | cons ts l ih =>
    simp only [assembleSlots, bind_ok] at h
    obtain ⟨⟨x1, m1⟩, h0, h⟩ := h
    obtain ⟨h1, h2⟩ := ih h
    simp only [assembleSlot, bind_ok, pure_ok, Prod.mk.injEq] at h0
    obtain ⟨e, _, elems, _, rfl, rfl⟩ := h0
    refine ⟨fun hm => h1 (wf_setAll hm _), ?_⟩
    obtain ⟨a, b, hx⟩ : ∃ a b, advanceCounters x = { x with noiseIdx := a, sineIdx := b } := ⟨_, _, rfl⟩
    rw [hx] at h2
    exact h2

end Sys2Proof.Laws
end

