-- ==== Sys2Proof/Laws/Encoding.lean ====
section
/-! SUPPORT. The bits of a command word and what the field extractions of the decoder read from a word that is built
from its four fields (30_encoding.md R131). -/

namespace Sys2Proof.Laws

open Sys2Proof

/-- Each bit of a word comes from the field that R131 puts there. -/
theorem word_getLsbD (op : BitVec 8) (ch sub : BitVec 4) (imm : BitVec 16) (k : Nat) :
    (word op ch sub imm).getLsbD k =
      if k < 16 then imm.getLsbD k
      else if k < 20 then sub.getLsbD (k - 16)
      else if k < 24 then ch.getLsbD (k - 20)
      else op.getLsbD (k - 24) := by
  simp only [word, BitVec.getLsbD_append]
  split_ifs <;> first | rfl | omega

@[simp] theorem opField_word (op : BitVec 8) (ch sub : BitVec 4) (imm : BitVec 16) :
    opField (word op ch sub imm) = op := by
  refine BitVec.eq_of_getLsbD_eq fun k hk => ?_
  interval_cases k <;> simp only [opField, BitVec.getLsbD_extractLsb', word_getLsbD] <;> simp

@[simp] theorem chField_word (op : BitVec 8) (ch sub : BitVec 4) (imm : BitVec 16) :
    chField (word op ch sub imm) = ch := by
  refine BitVec.eq_of_getLsbD_eq fun k hk => ?_
  interval_cases k <;> simp only [chField, BitVec.getLsbD_extractLsb', word_getLsbD] <;> simp

@[simp] theorem subField_word (op : BitVec 8) (ch sub : BitVec 4) (imm : BitVec 16) :
    subField (word op ch sub imm) = sub := by
  refine BitVec.eq_of_getLsbD_eq fun k hk => ?_
  interval_cases k <;> simp only [subField, BitVec.getLsbD_extractLsb', word_getLsbD] <;> simp

/-- A field of IMM, `n` bits from bit `a` on. -/
theorem extract_word_imm (op : BitVec 8) (ch sub : BitVec 4) (imm : BitVec 16) (a n : Nat) (h : a + n ≤ 16) :
    (word op ch sub imm).extractLsb' a n = imm.extractLsb' a n := by
  refine BitVec.eq_of_getLsbD_eq fun k hk => ?_
  have : a + k < 16 := by omega
  simp only [BitVec.getLsbD_extractLsb', word_getLsbD, if_pos this]

end Sys2Proof.Laws
end

