-- ==== Sys2Proof/Laws/PerInstr.lean ====
section
/-! SUPPORT. The per-instruction family `EncodesRow`: the word of a command matches the row of 30_encoding.md R136 that
the command stands in. -/

namespace Sys2Proof.Laws.EncodesRow

open Sys2Proof Sys2Proof.Laws

/-- (word AND mask) = match (30_encoding.md R136). -/
def Statement (i : Instr) : Prop := encode i &&& (rowOf i).2 = (rowOf i).1

/-- Two words agree if each of the 32 bits does. -/
theorem word_and_row {i : Instr} (h : ∀ k < 32, (encode i &&& (rowOf i).2).getLsbD k = (rowOf i).1.getLsbD k) :
    Statement i :=
  BitVec.eq_of_getLsbD_eq fun k hk => h k hk

theorem nop : Statement .nop := by unfold Statement; decide

theorem chreset (c : BitVec 4) : Statement (.chreset c) := word_and_row fun k hk => by
  interval_cases k <;> simp only [encode, rowOf, BitVec.getLsbD_and, word_getLsbD] <;> simp

theorem fbegin (a : BitVec 4) (b : BitVec 4) (d : BitVec 2) (e : Bool) (f : Bool) : Statement (.fbegin a b d e f) := word_and_row fun k hk => by
  interval_cases k <;> simp only [encode, rowOf, BitVec.getLsbD_and, word_getLsbD, BitVec.getLsbD_append] <;> simp

theorem fcommit : Statement .fcommit := by unfold Statement; decide

theorem fabort : Statement .fabort := by unfold Statement; decide

theorem setlayout (c : BitVec 4) : Statement (.setlayout c) := word_and_row fun k hk => by
  interval_cases k <;> simp only [encode, rowOf, BitVec.getLsbD_and, word_getLsbD] <;> simp

theorem rdbits (n : BitVec 6) : Statement (.rdbits n) := word_and_row fun k hk => by
  interval_cases k <;> simp only [encode, rowOf, BitVec.getLsbD_and, word_getLsbD, BitVec.getLsbD_append] <;> simp

theorem rdunary (a : Bool) (n : BitVec 16) : Statement (.rdunary a n) := word_and_row fun k hk => by
  interval_cases k <;> simp only [encode, rowOf, BitVec.getLsbD_and, word_getLsbD, BitVec.getLsbD_append] <;> simp

theorem rdvlc (n : BitVec 8) : Statement (.rdvlc n) := word_and_row fun k hk => by
  interval_cases k <;> simp only [encode, rowOf, BitVec.getLsbD_and, word_getLsbD, BitVec.getLsbD_append] <;> simp

theorem rdesc (n : BitVec 5) : Statement (.rdesc n) := word_and_row fun k hk => by
  interval_cases k <;> simp only [encode, rowOf, BitVec.getLsbD_and, word_getLsbD, BitVec.getLsbD_append] <;> simp

theorem sect (c : BitVec 4) (g : BitVec 4) (n : BitVec 4) : Statement (.sect c g n) := word_and_row fun k hk => by
  interval_cases k <;> simp only [encode, rowOf, BitVec.getLsbD_and, word_getLsbD, BitVec.getLsbD_append] <;> simp

theorem spec (c : BitVec 4) (g : BitVec 4) : Statement (.spec c g) := word_and_row fun k hk => by
  interval_cases k <;> simp only [encode, rowOf, BitVec.getLsbD_and, word_getLsbD] <;> simp

theorem sf (c : BitVec 4) (g : BitVec 4) (f : Bool) : Statement (.sf c g f) := word_and_row fun k hk => by
  interval_cases k <;> simp only [encode, rowOf, BitVec.getLsbD_and, word_getLsbD, BitVec.getLsbD_append] <;> simp

theorem arith (c : BitVec 4) (g : BitVec 4) : Statement (.arith c g) := word_and_row fun k hk => by
  interval_cases k <;> simp only [encode, rowOf, BitVec.getLsbD_and, word_getLsbD] <;> simp

theorem deq (c : BitVec 4) (g : BitVec 4) : Statement (.deq c g) := word_and_row fun k hk => by
  interval_cases k <;> simp only [encode, rowOf, BitVec.getLsbD_and, word_getLsbD] <;> simp

theorem stereo (c : BitVec 4) (d : BitVec 4) : Statement (.stereo c d) := word_and_row fun k hk => by
  interval_cases k <;> simp only [encode, rowOf, BitVec.getLsbD_and, word_getLsbD] <;> simp

theorem imdct (c : BitVec 4) : Statement (.imdct c) := word_and_row fun k hk => by
  interval_cases k <;> simp only [encode, rowOf, BitVec.getLsbD_and, word_getLsbD] <;> simp

theorem qmfa (c : BitVec 4) : Statement (.qmfa c) := word_and_row fun k hk => by
  interval_cases k <;> simp only [encode, rowOf, BitVec.getLsbD_and, word_getLsbD] <;> simp

theorem qmfs (c : BitVec 4) : Statement (.qmfs c) := word_and_row fun k hk => by
  interval_cases k <;> simp only [encode, rowOf, BitVec.getLsbD_and, word_getLsbD] <;> simp

theorem aspxcfg (c : BitVec 4) : Statement (.aspxcfg c) := word_and_row fun k hk => by
  interval_cases k <;> simp only [encode, rowOf, BitVec.getLsbD_and, word_getLsbD] <;> simp

theorem aspxenv (c : BitVec 4) : Statement (.aspxenv c) := word_and_row fun k hk => by
  interval_cases k <;> simp only [encode, rowOf, BitVec.getLsbD_and, word_getLsbD] <;> simp

theorem aspxhf (c : BitVec 4) : Statement (.aspxhf c) := word_and_row fun k hk => by
  interval_cases k <;> simp only [encode, rowOf, BitVec.getLsbD_and, word_getLsbD] <;> simp

theorem aspxgain (c : BitVec 4) : Statement (.aspxgain c) := word_and_row fun k hk => by
  interval_cases k <;> simp only [encode, rowOf, BitVec.getLsbD_and, word_getLsbD] <;> simp

theorem aspxasm (c : BitVec 4) : Statement (.aspxasm c) := word_and_row fun k hk => by
  interval_cases k <;> simp only [encode, rowOf, BitVec.getLsbD_and, word_getLsbD] <;> simp

end Sys2Proof.Laws.EncodesRow
end

