-- ==== Sys2Proof/Machine/Assembly.lean ====
section
/-! DEFINITION. The assembly text of a command (30_encoding.md R138) and the pseudo-instructions (R139), which are host
accesses and no commands of CORE. -/

namespace Sys2Proof.Machine

open Sys2Proof Config

/-! ### Assembly text -/

/-- A slot operand, `c<n>`. -/
def asmSlot (c : BitVec 4) : String := "c" ++ toString c.toNat
/-- A group operand, `g<n>`. -/
def asmGroup (g : BitVec 4) : String := "g" ++ toString g.toNat
/-- A flag operand. -/
def asmFlag (b : Bool) : String := if b then "1" else "0"
/-- A mnemonic and its operands, separated by commas. -/
def asmLine (mnemonic : String) (operands : List String) : String :=
  if operands.isEmpty then mnemonic else mnemonic ++ " " ++ ", ".intercalate operands

/-- The text of a command, register operands apart (30_encoding.md R138). -/
def asmText : Instr → String
  | .nop => asmLine "NOP" []
  | .chreset c => asmLine "CHRESET" [asmSlot c]
  | .fbegin flbIdx chmode codecmode indep seqp => asmLine "FBEGIN"
      ["flb=" ++ toString (flbTable.getD flbIdx.toNat 0), "chmode=" ++ toString chmode.toNat,
        "codec=" ++ toString codecmode.toNat, "indep=" ++ asmFlag indep, "seqp=" ++ asmFlag seqp]
  | .fcommit => asmLine "FCOMMIT" []
  | .fabort => asmLine "FABORT" []
  | .setlayout c => asmLine "SETLAYOUT" [asmSlot c]
  | .rdbits nbits => asmLine "RDBITS" [toString nbits.toNat]
  | .rdunary stop maxLen => asmLine "RDUNARY" [asmFlag stop, toString maxLen.toNat]
  | .rdvlc table => asmLine "RDVLC" [toString table.toNat]
  | .rdesc base => asmLine "RDESC" [toString base.toNat]
  | .sect c g lenBits => asmLine "SECT" [asmSlot c, asmGroup g, toString lenBits.toNat]
  | .spec c g => asmLine "SPEC" [asmSlot c, asmGroup g]
  | .sf c g snfp => asmLine "SF" [asmSlot c, asmGroup g, asmFlag snfp]
  | .arith c g => asmLine "ARITH" [asmSlot c, asmGroup g]
  | .deq c g => asmLine "DEQ" [asmSlot c, asmGroup g]
  | .stereo c c2 => asmLine "STEREO" [asmSlot c, asmSlot c2]
  | .imdct c => asmLine "IMDCT" [asmSlot c]
  | .qmfa c => asmLine "QMFA" [asmSlot c]
  | .qmfs c => asmLine "QMFS" [asmSlot c]
  | .aspxcfg c => asmLine "ASPXCFG" [asmSlot c]
  | .aspxenv c => asmLine "ASPXENV" [asmSlot c]
  | .aspxhf c => asmLine "ASPXHF" [asmSlot c]
  | .aspxgain c => asmLine "ASPXGAIN" [asmSlot c]
  | .aspxasm c => asmLine "ASPXASM" [asmSlot c]

/-! ### Pseudo-instructions -/

/-- A host write of a register. -/
def hostWrite (offset : Nat) (v : Word) : HostAccess := ⟨offset, 4, some v, false⟩
/-- A host read of a register. -/
def hostRead (offset : Nat) : HostAccess := ⟨offset, 4, none, false⟩
/-- A host write of ARG0. -/
def writeArg0 (v : Word) : HostAccess := hostWrite 0x10 v
/-- The CMD write that issues a command (10_state.md R45). -/
def issueCommand (i : Instr) : HostAccess := hostWrite 0x0C (encode i)

/-- A pseudo-instruction (30_encoding.md R139). -/
inductive Pseudo where
  | skip (n : BitVec 6)
  | rdflag
  | skipl (n : Nat)
  | rdescmax (b : BitVec 5) (m : Word)
  | abortIfErr
  | channelSpectrum (c g lb : BitVec 4) (snf : Bool)
  | channelTail (c : BitVec 4)
  | channelAspx (c : BitVec 4)
deriving DecidableEq, Repr

/-- The expansion of a pseudo-instruction (30_encoding.md R139). `status` is the STATUS word the host's read of
ABORT_IF_ERR returned. -/
def Pseudo.expand (status : Word) : Pseudo → List HostAccess
  | .skip n => [issueCommand (.rdbits n)]
  | .rdflag => [issueCommand (.rdbits 1)]
  | .skipl n => List.replicate (n / 32) (issueCommand (.rdbits 32)) ++ [issueCommand (.rdbits (BitVec.ofNat 6 (n % 32)))]
  | .rdescmax b m => [writeArg0 m, issueCommand (.rdesc b)]
  | .abortIfErr => hostRead 0x08 :: if status.getLsbD 4 then [issueCommand .fabort] else []
  | .channelSpectrum c g lb snf =>
      [issueCommand (.sect c g lb), issueCommand (.spec c g), issueCommand (.sf c g snf), issueCommand (.deq c g)]
  | .channelTail c => [issueCommand (.imdct c), issueCommand (.qmfa c), issueCommand (.qmfs c)]
  | .channelAspx c =>
      [issueCommand (.aspxcfg c), issueCommand (.aspxenv c), issueCommand (.aspxhf c), issueCommand (.aspxgain c),
        issueCommand (.aspxasm c)]

end Sys2Proof.Machine
end

