-- ==== Sys2Proof/Tests/Slice0.lean ====
section
/-! SUPPORT. Tests: the WellFormed smoke, a written-out word of every command, vectors of 95_test_vectors.md, and for
every obligation with hypotheses a witness: the statement taken at a concrete state and operands, every hypothesis
discharged there. -/

namespace Sys2Proof.Tests

open Sys2Proof Sys2Proof.Machine Sys2Proof.Config Sys2Proof.Laws

-- One theorem after another: many kernel evaluations at once would take more memory than a check allows.
set_option Elab.async false

/-! ### Helpers -/

/-- An illustrative value of the OPEN parameters, not the format's (95_test_vectors.md section 0). -/
def prm : Params where
  implId := 0xC0DE
  vlc := [(1, [⟨0, 1, 7⟩, ⟨2, 2, 3⟩, ⟨3, 2, 9⟩]), (2, [⟨0, 1, 7⟩, ⟨2, 2, 3⟩]), (3, [⟨0, 1, 62⟩, ⟨1, 1, 59⟩]),
    (4, [⟨0, 1, 5⟩, ⟨1, 1, 81⟩]), (5, [⟨0, 1, 275⟩, ⟨1, 1, 0⟩])]
  cbTable := Vector.replicate 16 4
  sfTable := 3
  snfTable := 3
  snfInit := 10
  sfbOffsets := flbTable.flatMap (fun flb => (tlenTable flb).map (fun n => ((flb, n), [0, 4, 8])))
  qmfWin := Vector.replicate 640 0x3F800000
  masterTable := [((2, 1, 1), [12, 14, 16, 19, 22, 25, 28, 32, 36, 40, 44, 48, 53, 58, 64])]
  aspxDelay := 2
  noiseTab := Vector.replicate 512 Cplx.zero

/-- CORE after power-on with these parameters. -/
def base : State := State.powerOn prm

/-- A frame of 512 samples is open on the bytes `l`, and SIM holds `sim` over zeros. -/
def opened (l : List Byte) (sim : List (Nat × Word)) : State :=
  { base with
    status := { Status.zero with fopen := true }
    frame := ⟨512, some 8, true, 0⟩
    bitlen := BitVec.ofNat 32 (8 * l.length)
    fcfg := 0x402
    bsm := ⟨.value 0, indexed 0 l⟩
    sim := Memory.setAll ⟨.value 0, []⟩ sim
    qg := ⟨.value 0, []⟩
    td := ⟨.value 0, []⟩ }

/-- The frame has failed. -/
def failed : State := { opened [] [] with status := { Status.zero with fopen := true, ffail := true } }

/-- The stages `xs` are done in F[c]. -/
def staged (s : State) (c : Fin 8) (xs : List Stage) : State := xs.foldl (fun s x => s.markDone c x) s

/-- What `f` shows of the next state. -/
def after {α : Type} (o : Host.Outcome State Fault Refusal) (f : State → α) : Option α :=
  match o with
  | .next t => some (f t)
  | _ => none

/-- The command word `v` is about to run. -/
def issued (s : State) (v : Word) : State := s.withCommand v

/-- The host is about to make the access `a`. -/
def hosted (s : State) (a : HostAccess) : State := { s with hostQ := [a] }


/-! ### WellFormed: the one check refuses ill-formed terms, in each of a command's slot fields -/

theorem test_wellformed_slot : (Instr.imdct 8).wellFormed = false ∧ (Instr.imdct 7).wellFormed = true := by decide
theorem test_wellformed_second_slot :
    (Instr.stereo 0 15).wellFormed = false ∧ (Instr.stereo 7 0).wellFormed = true := by decide

/-! ### Every command's word, written from the patterns of 30_encoding.md R136: OP, CH, SUB, IMM -/

theorem test_decode_nop : decode 0b00000000_0000_0000_0000000000000000#32 = .ok .nop := by decide
theorem test_decode_chreset : decode 0b00000001_0110_0000_0000000000000000#32 = .ok (.chreset 6) := by decide
theorem test_decode_fbegin :
    decode 0b00000010_0000_0000_0000_0_1_10_1001_0101#32 = .ok (.fbegin 5 9 2 true false) := by decide
theorem test_decode_fcommit : decode 0b00000011_0000_0000_0000000000000000#32 = .ok .fcommit := by decide
theorem test_decode_fabort : decode 0b00000100_0000_0000_0000000000000000#32 = .ok .fabort := by decide
theorem test_decode_setlayout : decode 0b00000101_0111_0000_0000000000000000#32 = .ok (.setlayout 7) := by decide
theorem test_decode_rdbits : decode 0b00010000_0000_0000_0000000000_100001#32 = .ok (.rdbits 33) := by decide
theorem test_decode_rdunary :
    decode 0b00010001_0000_0001_1000000000000010#32 = .ok (.rdunary true 0x8002) := by decide
theorem test_decode_rdvlc : decode 0b00010010_0000_0000_00000000_11001000#32 = .ok (.rdvlc 200) := by decide
theorem test_decode_rdesc : decode 0b00010011_0000_0000_00000000000_10001#32 = .ok (.rdesc 17) := by decide
theorem test_decode_sect : decode 0b00100000_0011_1100_000000000000_0101#32 = .ok (.sect 3 12 5) := by decide
theorem test_decode_spec : decode 0b00100001_1000_0001_0000000000000000#32 = .ok (.spec 8 1) := by decide
theorem test_decode_sf : decode 0b00100010_0010_0100_000000000000000_1#32 = .ok (.sf 2 4 true) := by decide
theorem test_decode_arith : decode 0b00100011_0001_1111_0000000000000000#32 = .ok (.arith 1 15) := by decide
theorem test_decode_deq : decode 0b00100100_0101_1010_0000000000000000#32 = .ok (.deq 5 10) := by decide
theorem test_decode_stereo : decode 0b00110000_0000_0001_0000000000000000#32 = .ok (.stereo 0 1) := by decide
theorem test_decode_imdct : decode 0b01000000_0100_0000_0000000000000000#32 = .ok (.imdct 4) := by decide
theorem test_decode_qmfa : decode 0b01010000_0011_0000_0000000000000000#32 = .ok (.qmfa 3) := by decide
theorem test_decode_qmfs : decode 0b01010001_0010_0000_0000000000000000#32 = .ok (.qmfs 2) := by decide
theorem test_decode_aspxcfg : decode 0b01100000_0001_0000_0000000000000000#32 = .ok (.aspxcfg 1) := by decide
theorem test_decode_aspxenv : decode 0b01100001_0010_0000_0000000000000000#32 = .ok (.aspxenv 2) := by decide
theorem test_decode_aspxhf : decode 0b01100010_0100_0000_0000000000000000#32 = .ok (.aspxhf 4) := by decide
theorem test_decode_aspxgain : decode 0b01100011_0111_0000_0000000000000000#32 = .ok (.aspxgain 7) := by decide
theorem test_decode_aspxasm : decode 0b01100100_0110_0000_0000000000000000#32 = .ok (.aspxasm 6) := by decide
/-- DC2, DC3, DC4, DC6, DC9 of 95_test_vectors.md. -/
theorem test_decode_refused :
    decode 0x00000001#32 = .error .field ∧ decode 0x07000000#32 = .error .opcode ∧
      decode 0xF0000000#32 = .error .opcode ∧ decode 0x10000040#32 = .error .field ∧
      decode 0x11020010#32 = .error .field := by decide

/-! ### Commands, on the vectors of 95_test_vectors.md sections 2.2 to 2.9 -/

/-- EX6: DONE, and the line follows it. -/
theorem test_nop :
    after (exec .nop { base with ctrl := Ctrl.ofWord 2 }) (fun t => (t.status.toWord, t.irq)) = some (8, true) := by
  decide +kernel
/-- CT13. -/
theorem test_chreset :
    after (exec (.chreset 2) (base.setK 2 { ChannelState.reset prm with nprev := 1024 }))
      (fun t => ((t.kAt 2).nprev, (t.wAt 2).masterResetPending)) = some (0, true) := by decide +kernel
/-- CT14. -/
theorem test_chreset_in_frame :
    after (exec (.chreset 2) ((opened [] []).setK 2 { ChannelState.reset prm with nprev := 1024 }))
      (fun t => (t.kAt 2).nprev) = some 1024 := by decide +kernel
/-- CT7. -/
theorem test_fbegin :
    after (exec (.fbegin 5 0 1 true true) { base with seq := 0x80000005, arg0 := 0x00070000 })
      (fun t => (t.status.toWord, t.seq, t.fcfg, t.frame.numTs)) = some (0x0010002A, 0x80000007, 0x505, some 16) := by
  decide +kernel
/-- CT3. -/
theorem test_fbegin_range :
    after (exec (.fbegin 5 0 1 true false) { base with arg0 := 0x3FFF, arg1 := 2 }) (fun t => t.status.toWord)
      = some 0x610 := by decide +kernel
/-- CT12. -/
theorem test_fcommit :
    after (exec .fcommit ((opened [] []).setW 2 { ChannelState.reset prm with nprev := 512 }))
      (fun t => (t.status.toWord, (t.kAt 2).nprev)) = some (0x01000008, 512) := by decide +kernel
/-- CT10. -/
theorem test_fcommit_incomplete :
    after (exec .fcommit (staged (opened [] []) 0 [.layout])) (fun t => t.status.toWord) = some 0x616 := by decide +kernel
/-- CT11, CT16. -/
theorem test_fabort :
    after (exec .fabort failed) (fun t => t.status.toWord) = some 8 ∧
      after (exec .fabort base) (fun t => t.status.toWord) = some 0x610 := by decide +kernel
/-- As CT17, with two windows of 256 samples. -/
theorem test_setlayout :
    after (exec (.setlayout 0) (opened [] [(0, 2), (0x10, 1), (0x11, 1), (0x20, 256), (0x21, 256), (0x30, 2)]))
      (fun t => ((t.wAt 0).wins, (t.wAt 0).maxSfb.toList.take 3)) = some ([⟨0, 256, 0⟩, ⟨256, 256, 1⟩], [2, 0, 0]) := by
  decide +kernel
/-- CT22, CT23: the sample map. -/
theorem test_sample_map :
    (List.range 9).map (sampleMapAt prm 512 [⟨0, 0, 2, 256, 1⟩]) = List.replicate 4 (some (0, 0)) ++ List.replicate 5 none ∧
      sampleMapAt prm 512 [⟨0, 0, 2, 256, 2⟩] 260 = some (0, 1) := by decide +kernel
/-- BR1. -/
theorem test_rdbits :
    after (exec (.rdbits 3) (opened [0xB4] [])) (fun t => (t.result, t.bitpos)) = some (5, 3) := by decide +kernel
/-- BR4. -/
theorem test_rdbits_truncated :
    after (exec (.rdbits 3) { opened [0xB4] [] with bitpos := 6 }) (fun t => (t.status.errcode, t.bitpos)) = some (1, 6) := by
  decide +kernel
/-- BR5. -/
theorem test_rdunary :
    after (exec (.rdunary false 16) (opened [0xE0] [])) (fun t => (t.result, t.bitpos)) = some (3, 4) := by decide +kernel
/-- BR9. -/
theorem test_rdunary_truncated :
    after (exec (.rdunary false 16) { opened [0x07] [] with bitpos := 5 }) (fun t => (t.status.errcode, t.bitpos))
      = some (1, 5) := by decide +kernel
/-- BR11. -/
theorem test_rdvlc :
    after (exec (.rdvlc 1) (opened [0x80] [])) (fun t => (t.result, t.bitpos)) = some (3, 2) := by decide +kernel
/-- BR13, BR14, BR15. -/
theorem test_rdvlc_errors :
    after (exec (.rdvlc 2) (opened [0xC0] [])) (fun t => t.status.errcode) = some 2 ∧
      after (exec (.rdvlc 1) { opened [0x01] [] with bitpos := 7 }) (fun t => t.status.errcode) = some 1 ∧
      after (exec (.rdvlc 200) (opened [0x00] [])) (fun t => t.status.errcode) = some 6 := by decide +kernel
/-- BR16. -/
theorem test_rdesc :
    after (exec (.rdesc 2) { opened [0xA8] [] with arg0 := 100 }) (fun t => (t.result, t.bitpos)) = some (13, 6) := by
  decide +kernel
/-- BR17. -/
theorem test_rdesc_out_of_range :
    after (exec (.rdesc 2) { opened [0xE0] [] with arg0 := 10 }) (fun t => t.status.errcode) = some 3 := by decide +kernel

/-- One group of `ms` bands over one window of 512 samples, the first four samples in band 0. -/
def laid (ms : Nat) : ChannelState :=
  { ChannelState.reset prm with
    ngroups := 1
    nwin := (Vector.replicate 16 0).set 0 1
    tlen := (Vector.replicate 16 0).set 0 512
    maxSfb := (Vector.replicate 16 0).set 0 ms
    wins := [⟨0, 512, 0⟩]
    smap := Vector.ofFn (fun t => if t.val < 4 then some (0, 0) else none) }

/-- `s` with that layout in slot `c`, the stages `xs` done there. -/
def laidOut (s : State) (c : Fin 8) (ms : Nat) (xs : List Stage) : State := staged (s.setW c (laid ms)) c xs

/-- SC4. -/
theorem test_sect :
    after (exec (.sect 0 0 2) (laidOut (opened [0x3D] []) 0 4 [.layout]))
      (fun t => ((t.chanAt 0).cb.toList.take 5, t.bitpos)) = some ([some 3, some 3, some 3, some 3, none], 8) := by
  decide +kernel
/-- SC2, SC5. -/
theorem test_sect_invalid :
    after (exec (.sect 0 0 3) (laidOut (opened [0x1E, 0x40] []) 0 3 [.layout])) (fun t => t.status.errcode) = some 4 ∧
      after (exec (.sect 0 0 3) (laidOut (opened [0xC0] []) 0 2 [.layout])) (fun t => t.status.errcode) = some 4 := by
  decide +kernel
/-- TU5: codebook 3, symbol 5, signs 1 0. -/
theorem test_spec_tuple :
    decodeTuple (opened [0x40] []) ⟨4, false, 2, false⟩ 4 0 = .ok ([0, 0, -1, 2], 3) := by decide +kernel
/-- TU6, TU4: codebook 11, symbol 275, signs 0 1, escape 10 00011; and codebook 1, symbol 81. -/
theorem test_spec_escape :
    decodeTuple (opened [0x30, 0xC0] []) ⟨2, false, 16, true⟩ 5 0 = .ok ([35, -3], 10) ∧
      decodeTuple (opened [0x80] []) ⟨4, true, 1, false⟩ 4 0 = .error (.fatal .malformedCode) := by decide +kernel

/-- F[0] with the codebooks and the greatest magnitudes of the first bands. -/
def withBands (s : State) (cb mag : List Nat) : State :=
  s.setChan 0 { s.chanAt 0 with
    cb := Tab.put (s.chanAt 0).cb (indexed 0 cb), maxMag := Tab.put (s.chanAt 0).maxMag (indexed 0 mag) }

/-- SF1: 100, then a difference of 62 − 60, then no scale factor. -/
theorem test_sf :
    after (exec (.sf 0 0 false) (withBands (laidOut (opened [0x64, 0x00] []) 0 3 [.spec 0]) [1, 1, 0] [1, 1, 0]))
      (fun t => ((t.chanAt 0).sf.toList.take 3, t.bitpos)) = some ([some (some 100), some (some 102), some none], 9) := by
  decide +kernel
/-- SF3: 0, then a difference of −1. -/
theorem test_sf_out_of_range :
    after (exec (.sf 0 0 false) (withBands (laidOut (opened [0x00, 0x80] []) 0 2 [.spec 0]) [1, 1] [1, 1]))
      (fun t => (t.status.errcode, t.bitpos)) = some (3, 0) := by decide +kernel
/-- AR1. -/
theorem test_arith :
    after (exec (.arith 0 0) { laidOut (opened (List.replicate 25 0) []) 0 1 [.layout] with bitpos := 10, arg0 := 120 })
      (fun t => (t.bitpos, t.status.toWord, t.done 0 (.spec 0))) = some (130, 0x0011006A, true) := by decide +kernel
/-- AR2. -/
theorem test_arith_truncated :
    after (exec (.arith 0 0) { laidOut (opened (List.replicate 25 0) []) 0 1 [.layout] with bitpos := 100, arg0 := 120 })
      (fun t => t.status.toWord) = some 0x116 := by decide +kernel
/-- DQ1: −2 · 2^(1/3) · 2 in binary32. -/
theorem test_deq : dequantized (-2) 104 = 0xC0A14518 ∧ dequantized 1 100 = 0x3F800000 := by decide +kernel
/-- ST7: 1.7 and 0.3 in binary32, from alpha = 2 · 0.1. -/
theorem test_stereo :
    stereoMatrix (R32.mul (R32.ofInt 2) Tables.tenth) (R32.ofInt 1) (R32.ofRat 1 2) = (0x3FD9999A, 0x3E99999A) := by
  decide +kernel
/-- ST8. -/
theorem test_stereo_mode :
    after (exec (.stereo 0 1)
      (laidOut (laidOut (opened [] [(0x40, 4)]) 0 0 [.deq 0]) 1 0 [.deq 0])) (fun t => t.status.errcode) = some 4 := by
  decide +kernel
/-- MD1: cos of 3, 5, 7 and 9 times π/8 in binary32. -/
theorem test_imdct :
    (List.range 4).map (invTransformAt 2 #[R32.ofInt 1, 0]) = [0x3EC3EF15, 0xBEC3EF15, 0xBF6C835E, 0xBF6C835E] := by
  decide +kernel
/-- MD6. -/
theorem test_imdct_length :
    after (exec (.imdct 0) (staged ((opened [] []).setW 0 { laid 0 with nprev := 1024, flbPrev := 1024 }) 0 [.deq 0]))
      (fun t => t.status.errcode) = some 4 := by decide +kernel
/-- QF1: exp(−iπ/512) in binary32. -/
theorem test_qmfa : Tables.anaKernel 0 0 = ⟨0x3F7FFEC4, 0xBBC90F88⟩ := by decide +kernel
/-- QF5. -/
theorem test_qmfa_timeslots :
    after (exec (.qmfa 0) { staged (opened [] []) 0 [.imdct] with frame := ⟨480, none, true, 0⟩ })
      (fun t => t.status.errcode) = some 4 := by decide +kernel
/-- QF2: exp(−iπ·255/256)/64 in binary32. -/
theorem test_qmfs : Tables.synKernel 0 0 = ⟨0xBC7FFB11, 0xB9490E90⟩ := by decide +kernel
/-- QF8. -/
theorem test_qmfs_order :
    after (exec (.qmfs 0) (staged (opened [] []) 0 [.qmfa, .axcfg])) (fun t => t.status.errcode) = some 6 := by
  decide +kernel

/-- The tables of AT1 to AT5. -/
def tabs : AspxTabs :=
  { master := [12, 14, 16, 19, 22, 25, 28, 32, 36, 40, 44, 48, 53, 58, 64]
    hi := [16, 19, 22, 25, 28, 32, 36, 40, 44, 48, 53, 58, 64]
    lo := [16, 22, 28, 36, 44, 53, 64]
    noise := [16, 22, 28, 44, 64]
    lim := [16, 22, 32, 40, 48, 58, 64]
    patches := [⟨6, 16, 6⟩, ⟨2, 22, 10⟩, ⟨4, 32, 8⟩, ⟨4, 40, 8⟩, ⟨2, 48, 10⟩, ⟨6, 58, 6⟩]
    sbx := 16
    sbTop := 64 }

/-- AT1 to AT5. -/
theorem test_aspxcfg : buildTables prm (2, 1, 1) 2 2 = .ok tabs := by decide +kernel
/-- AT6, AT7: the patches with a dropped tail, and a walk that stalls. -/
theorem test_aspxcfg_patches :
    patchList [18, 28, 36, 46, 62, 64] 28 64 = .ok [⟨10, 28, 8⟩, ⟨8, 36, 10⟩, ⟨2, 46, 16⟩] ∧
      patchList [8, 16, 24, 32, 40, 48, 56, 64] 40 64 = .error (.fatal .invalidAspxConfig) := by decide +kernel

/-- Slot 0 holds those tables, and the stages `xs` are done in F[0]. -/
def tabled (sim : List (Nat × Word)) (xs : List Stage) : State :=
  staged ((opened [] sim).setW 0 ((ChannelState.reset prm).withTables tabs)) 0 xs

/-- The grid of EV2 in eight timeslots: resolutions 0 and 1, directions 0 and 1, the differences, and a noise
envelope of 6. -/
def gridSim : List (Nat × Word) :=
  [(0x905, 0), (0x906, 2), (0x907, 1), (0x911, 4), (0x912, 8), (0x919, 8), (0x921, 1), (0x929, 1), (0xA00, 5)]
    ++ indexed 0xA01 (List.replicate 5 1) ++ indexed 0xA40 (List.replicate 12 1) ++ [(0xB80, 6)]

/-- EV2, EV4. -/
theorem test_aspxenv :
    after (exec (.aspxenv 0) (tabled gridSim [.axcfg]))
      (fun t => ((t.wAt 0).qscfPrev.toList.take 13, (t.wAt 0).qnoisePrev.toList, (t.chanAt 0).qscf.toList.take 2))
      = some ([6, 6, 7, 7, 8, 8, 9, 9, 10, 10, 11, 11, 0], [6, 6, 6, 6, 0], [some 5, some 6]) := by decide +kernel
/-- EV9, EV11. -/
theorem test_aspxenv_errors :
    after (exec (.aspxenv 0) (tabled
      [(0x906, 1), (0x907, 1), (0x911, 8), (0x919, 8), (0xA00, 127)] [.axcfg])) (fun t => t.status.errcode) = some 3 ∧
    after (exec (.aspxenv 0) (tabled [(0x905, 2)] [.axcfg])) (fun t => t.status.errcode) = some 5 := by decide +kernel
/-- HF3, HF5 in binary32. -/
theorem test_aspxhf :
    chirp 2 0 0 = 0x3F50CCCC ∧ chirp 0 2 (chirp 2 0 0) = 0x3E50CCCC ∧ chirp 0 0 0x3D200000 = 0 := by decide +kernel
/-- HF10. -/
theorem test_aspxhf_mode :
    after (exec (.aspxhf 0) (tabled [(0x940, 4)] [.axenv])) (fun t => t.status.errcode) = some 5 := by decide +kernel
/-- GN5, GN3, GN4. -/
theorem test_aspxgain :
    dequantBalance 1 2 10 24 6 12 = (0x45000000, 0x3F800000) ∧ dequantBalance (-1) 2 10 24 6 12 = (0x45000000, 0x3F800000) ∧
      dequantPlain 2 126 30 = (0x62000000, 0x33800000) := by decide +kernel
/-- GN9: 1.392621 and 5.741924 in binary32. -/
theorem test_aspxgain_levels :
    envelopeLevels base 0 0 [16, 18] [⟨16, 0x42800000, 0x3F800000, 0x41800000, false, false⟩,
      ⟨17, 0x42800000, 0x3F800000, 0x41800000, false, false⟩]
      = [(16, 0x3FB24169, 0x40B7BDD7, 0), (17, 0x3FB24169, 0x40B7BDD7, 0)] := by decide +kernel
/-- AS1, AS2. -/
theorem test_aspxasm :
    (List.finRange 4).map (fun s => Tables.sine s 16)
      = [⟨0x3F800000, 0⟩, ⟨0, 0x3F800000⟩, ⟨0xBF800000, 0⟩, ⟨0, 0xBF800000⟩] ∧
      Tables.sine 1 17 = ⟨0, 0xBF800000⟩ := by decide +kernel
/-- AS4, AS3: a counter wraps, and one outside the high band stays. -/
theorem test_aspxasm_counters :
    let x := advanceCounters { (ChannelState.reset prm).withTables tabs with noiseIdx := Vector.replicate 64 511 }
    (x.noiseIdx.get 16, x.noiseIdx.get 15, x.sineIdx.get 16) = (0, 511, 1) := by decide +kernel

/-! ### The host's side -/

/-- MEM1. -/
theorem test_hdata_write :
    after (step (hosted base (hostWrite 0x30 0x1FF))) (fun t => (t.bsmByte 0, t.haddr)) = some (0xFF, 1) := by
  decide +kernel
/-- MEM5, MEM7. -/
theorem test_hdata_out_of_range :
    after (step (hosted { base with haddr := 0x20000000 } (hostWrite 0x30 1))) (fun t => (t.status.herr, t.haddr))
      = some (true, 0x20000001) ∧
    after (step (hosted { base with haddr := 0x50000000 } (hostRead 0x30))) (fun t => (t.status.herr, t.rdata))
      = some (true, 0) := by decide +kernel
/-- EX8. -/
theorem test_w1c :
    (Status.w1c { Status.zero with gap := true, warn := true, warncode := 17 } 0x20)
      = { Status.zero with gap := true } := by decide
/-- A table word placed by `withFetchWord` is the command the next step runs. -/
theorem test_withFetchWord :
    after (step ((opened [0xB4] []).withFetchWord 32 0x10000003)) (fun t => (t.result, t.status.busy)) = some (5, false) := by
  decide +kernel


/-! ### Witnesses: decoding and errors -/

theorem ready_base (v : Word) : (issued base v).aboutToRun := ⟨rfl, fun _ ha => by cases ha⟩
theorem ready_failed (v : Word) : (issued failed v).aboutToRun := ⟨rfl, fun _ ha => by cases ha⟩
theorem ready_opened (l : List Byte) (sim : List (Nat × Word)) (v : Word) : (issued (opened l sim) v).aboutToRun :=
  ⟨rfl, fun _ ha => by cases ha⟩
theorem running_opened (l : List Byte) (sim : List (Nat × Word)) : (opened l sim).running := ⟨rfl, rfl⟩

/-- A property of every row of the table, checked row by row. -/
theorem every_row {P : Word × Word → Prop} [DecidablePred P] (h : tableRows.all (fun r => decide (P r)) = true) :
    ∀ r ∈ tableRows, P r := fun r hr => of_decide_eq_true (List.all_eq_true.mp h r hr)

theorem witness_RowsMatchWords (h : Obligations.RowsMatchWords) :
    (0x20630005#32 &&& 0xFF00FFF0#32 = 0x20000000#32) ∧ ∃ i, decode 0x64500000#32 = .ok i ∧ rowOf i = (0x64000000, 0xFF0FFFFF) :=
  ⟨(h 0x20630005).1 (.sect 6 3 5) (by decide), (h 0x64500000).2.1 _ (by decide) (by decide)⟩

theorem witness_StepRunsDecodedCommand (h : Obligations.StepRunsDecodedCommand) :
    step (issued base 0x10000003) = exec (.rdbits 3) (issued base 0x10000003) ∧
      step (base.withFetchWord 32 0x51400000) = exec (.qmfs 4) (base.withFetchWord 32 0x51400000) :=
  ⟨h.1 _ _ (ready_base _) (by decide), h.2 _ _ _ _ (by decide)⟩

theorem witness_DecodeOrder (h : Obligations.DecodeOrder) :
    step (issued base 0x06000000) = .next ((issued base 0x06000000).failedWith 6) ∧
    step (issued base 0x00000001) = .next ((issued base 0x00000001).failedWith 6) ∧
    step (issued base 0x30080000) = .next ((issued base 0x30080000).failedWith 6) ∧
    step (issued base 0x30770000) = exec (.stereo 7 7) (issued base 0x30770000) :=
  ⟨(h _ (ready_base _)).1 (every_row (by decide +kernel)), (h _ (ready_base _)).2.1 (every_row (by decide +kernel)),
    (h _ (ready_base _)).2.2.1 (.stereo 0 8) (by decide) (by decide),
    (h _ (ready_base _)).2.2.2 _ (by decide) (by decide)⟩

theorem witness_ReservedOpcodesRaise (h : Obligations.ReservedOpcodesRaise) :
    ∀ v ∈ [0x06000000#32, 0x0F000000#32, 0x14000000#32, 0x2F000000#32, 0x52000000#32, 0x65000000#32, 0xFF000000#32],
      step (issued base v) = .next ((issued base v).failedWith 6) := by
  intro v hv
  refine h _ (ready_base v) ?_
  simp only [List.mem_cons, List.not_mem_nil, or_false] at hv
  rcases hv with rfl | rfl | rfl | rfl | rfl | rfl | rfl <;> decide +kernel

theorem runs_base {v : Word} {i : Instr} {t : State} (hd : decode v = .ok i) (he : exec i (issued base v) = .next t) :
    step (issued base v) = .next t := by
  show (issued base v).runCommand = _
  rw [State.runCommand, show decode (issued base v).cmd = .ok i from hd]
  exact he

/-- CORE without a frame, DONE = 1 and ERR = 1. -/
def marked : State := { base with status := { Status.zero with done := true, err := true, errcode := 3 } }

/-- NOP; FCOMMIT without a frame, also from DONE = 1 and ERR = 1. -/
theorem witness_FatalErrorsArePrecise (h : Obligations.FatalErrorsArePrecise) :
    ((issued base 0).complete).status.busy = false ∧ ((issued base 0x03000000).failedWith 6).status.busy = false ∧
      ((issued marked 0x03000000).failedWith 6).status.busy = false := by
  have hm : step (issued marked 0x03000000) = .next ((issued marked 0x03000000).failedWith 6) := by
    show (issued marked 0x03000000).runCommand = _
    rw [State.runCommand, show decode (issued marked 0x03000000).cmd = .ok .fcommit from by decide]
    rfl
  exact ⟨(h _ _ (ready_base 0) (runs_base (i := .nop) (by decide) rfl)).1,
    (h _ _ (ready_base 0x03000000) (runs_base (i := .fcommit) (by decide) rfl)).1,
    (h _ _ ⟨rfl, fun _ ha => by cases ha⟩ hm).1⟩

theorem witness_FailedFrameDiscards (h : Obligations.FailedFrameDiscards) :
    step (issued failed 0x07000000) = .next ((issued failed 0x07000000).failedWith 6) ∧
    exec (.spec 8 0) failed = .next (failed.failedWith 6) ∧ exec (.spec 0 0) failed = .next failed.ended ∧
    exec .nop failed = .next failed.ended ∧ exec (.fbegin 0 0 0 false false) failed = .next (failed.failedWith 6) ∧
    ∃ t, exec .fcommit failed = .next t ∧ t.status.fopen = false :=
  ⟨(h (issued failed 0x07000000) rfl rfl).1 (ready_failed _) .opcode (by decide),
    ((h failed rfl rfl).2 (.spec 8 0)).1 (by decide), ((h failed rfl rfl).2 (.spec 0 0)).2 (by decide),
    ((h failed rfl rfl).2 .nop).2 (by decide), ((h failed rfl rfl).2 (.fbegin 0 0 0 false false)).2 (by decide),
    (((h failed rfl rfl).2 .fcommit).2 (by decide)).imp fun _ ht => ⟨ht.1, ht.2.1⟩⟩

/-- A VLC table that is not prefix-free, in a running frame. -/
def badTable : State :=
  { opened [0] [] with cfg := { prm with vlc := [(9, [⟨0, 1, 0⟩, ⟨1, 2, 1⟩])] } }

theorem witness_OnlyIllegalParametersStop (h : Obligations.OnlyIllegalParametersStop) :
    (∃ t, exec (.qmfa 3) base = .next t) ∧
      exec (.rdvlc 9) badTable = .refused .illegalParameter ∧ (Instr.rdvlc 9 matches .setlayout _ | .rdvlc _ | .spec _ _ | .sf _ _ _) :=
  ⟨(h (.qmfa 3) base).1 (by decide +kernel), rfl, ((h (.rdvlc 9) badTable).2.2 .illegalParameter rfl).2⟩

theorem witness_FlagsChangeOnlyAsNamed (h : Obligations.FlagsChangeOnlyAsNamed) :
    ∀ t, exec .fcommit (opened [] []) = .next t → t.status.herr = false :=
  fun t ht => (h .fcommit (opened [] []) t ht).1

/-- The premises of the clauses about PCMV, FOPEN, WARN and GAP hold of one FCOMMIT and one ARITH. -/
theorem witness_FlagsChangeOnlyAsNamed_clauses :
    after (exec .fcommit (opened [] [])) (fun t => (t.status.pcmv, t.status.fopen)) = some (true, false) ∧
    after (exec .fabort failed) (fun t => t.status.ffail) = some false ∧
    after (exec (.arith 0 0) (laidOut (opened [] []) 0 0 [.layout])) (fun t => (t.status.warn, t.status.gap))
      = some (true, true) := by decide +kernel

/-! ### Witnesses: what commands may touch -/

theorem witness_OperandAndResultRegisters (h : Obligations.OperandAndResultRegisters) :
    ∃ t, exec (.rdbits 3) (opened [0xB4] []) = .next t ∧ t.result ≠ (opened [0xB4] []).result ∧
      t.arg0 = (opened [0xB4] []).arg0 :=
  ⟨_, rfl, by decide +kernel, (h (.rdbits 3) (opened [0xB4] []) _ rfl).1⟩

/-- PCM, TD and QG do change, by the commands named. -/
theorem witness_MemoriesOnlyByNamedCommands (h : Obligations.MemoriesOnlyByNamedCommands) :
    (∃ t, exec .fcommit (opened [] []) = .next t ∧ t.bsm = (opened [] []).bsm) ∧
    after (exec .fcommit (opened [] [])) (fun t => (decide (t.td = (opened [] []).td), decide (t.qg = (opened [] []).qg)))
      = some (false, false) ∧
    after (exec (.qmfs 0) { staged (opened [] []) 0 [.qmfa] with frame := ⟨384, some 1, true, 0⟩ })
      (fun t => t.pcm.cells.isEmpty) = some false :=
  ⟨⟨_, rfl, (h .fcommit (opened [] []) _ rfl).1.2.2.2.2.2.2.1⟩, by decide +kernel, by decide +kernel⟩

/-- The working record of slot 2 differs from the committed one. -/
def pending : State := (opened [] []).setW 2 { ChannelState.reset prm with nprev := 512 }

theorem witness_CommittedHistoryOnlyByCommit (h : Obligations.CommittedHistoryOnlyByCommit) :
    ∃ t, exec .fcommit pending = .next t ∧ t.k = pending.w := by
  have hk : ((pending.commit.endFrame).complete).k ≠ pending.k := fun e => absurd (congrArg (fun v => (v.get 2).nprev) e) (by decide)
  refine ⟨_, rfl, ?_⟩
  rcases h .fcommit pending _ rfl hk with ⟨_, _, _, hw⟩ | ⟨c, hc, _⟩
  · exact hw
  · cases hc


/-- The reset record is in the ranges of 10_state.md R71, R73, R74. -/
theorem legal_reset : (ChannelState.reset prm).legal prm :=
  ⟨by decide, fun g => by simp [ChannelState.reset, Vector.get], (fun w hw => nomatch hw : ∀ w ∈ ([] : List Window), w.off + w.len ≤ maxTlen), by decide +kernel, by decide,
    by decide, by decide⟩

theorem channels_base : base.channelsLegal := fun c => by
  have hw : base.wAt c = ChannelState.reset prm := by simp [State.wAt, base, State.powerOn, Vector.get]
  have hk : base.kAt c = ChannelState.reset prm := by simp [State.kAt, base, State.powerOn, Vector.get]
  rw [hw, hk]
  exact ⟨legal_reset, legal_reset⟩

theorem tables_base : base.tablesLegal := fun c => by
  have hw : base.wAt c = ChannelState.reset prm := by simp [State.wAt, base, State.powerOn, Vector.get]
  have hk : base.kAt c = ChannelState.reset prm := by simp [State.kAt, base, State.powerOn, Vector.get]
  rw [hw, hk]
  exact ⟨fun h => absurd h (by decide), fun h => absurd h (by decide)⟩

theorem channels_opened (l : List Byte) (sim : List (Nat × Word)) : (opened l sim).channelsLegal := channels_base

theorem frame_base : base.frameLegal := by
  simp [State.frameLegal, base, State.powerOn, Status.zero, State.chanAt, Vector.get]

theorem frame_opened : (opened [0xB4] []).frameLegal := by
  simp only [State.frameLegal, opened]
  decide

theorem witness_CommandsKeepToTheirSlots (h : Obligations.CommandsKeepToTheirSlots) :
    ∃ t, exec (.chreset 3) (opened [0xB4] []) = .next t ∧ t.chanAt 2 = (opened [0xB4] []).chanAt 2 :=
  ⟨_, rfl, (h (.chreset 3) _ _ frame_opened (channels_opened _ _) rfl (by simp) 2 (by decide)).2.1⟩

theorem witness_CursorOnlyMovesForward (h : Obligations.CursorOnlyMovesForward) :
    ∃ t, exec (.rdbits 8) (opened [0xB4] []) = .next t ∧ t.bitlen = (opened [0xB4] []).bitlen :=
  ⟨_, rfl, (h (.rdbits 8) _ _ (by decide : (0 : Nat) ≤ _) rfl (by simp)).1⟩

/-- A balance pair of slots 0 and 1, the envelopes of slot 0 done and those of slot 1 not. -/
def unpaired : State := staged (opened [] [(0x908, 1), (0x909, 1)]) 0 [.axhf]

/-- Every row of R433 with a stage missing, one with its own stage done, and no frame open. -/
theorem witness_StageOrderIsEnforced (h : Obligations.StageOrderIsEnforced) :
    (∀ i ∈ [Instr.sect 0 15 1, .arith 0 0, .spec 0 0, .sf 0 1 false, .deq 0 0, .stereo 0 1, .stereo 1 0, .imdct 0,
        .qmfa 0, .aspxcfg 0, .aspxenv 0, .aspxhf 0, .aspxgain 0, .aspxasm 0, .qmfs 0],
      exec i (opened [] []) = .next ((opened [] []).failedWith 6)) ∧
    exec (.qmfa 7) (staged (opened [] []) 7 [.imdct, .qmfa]) = .next ((staged (opened [] []) 7 [.imdct, .qmfa]).failedWith 6) ∧
    exec (.aspxgain 0) unpaired = .next (unpaired.failedWith 6) ∧
    exec .fcommit (staged (opened [] []) 0 [.layout]) = .next ((staged (opened [] []) 0 [.layout]).failedWith 6) ∧
    exec (.imdct 0) base = .next (base.failedWith 6) := by
  refine ⟨?_, h.1 _ 7 0 (.qmfa 7) ⟨rfl, rfl⟩ (by decide) (by simp; decide +kernel), h.1 unpaired 0 0 _ ⟨rfl, rfl⟩ (by decide) ?_,
    h.1 _ 0 0 .fcommit ⟨rfl, rfl⟩ (by decide) (by simp; decide +kernel), h.2 base _ rfl (by decide) (by simp)⟩
  · intro i hi
    have h1 (g : BitVec 4) (i : Instr) := h.1 (opened [] []) 0 g i (running_opened _ _) (by decide)
    simp only [List.mem_cons, List.not_mem_nil, or_false] at hi
    rcases hi with rfl | rfl | rfl | rfl | rfl | rfl | rfl | rfl | rfl | rfl | rfl | rfl | rfl | rfl | rfl
    · exact h1 15 _ (by simp; decide +kernel)
    · exact h1 0 _ (by simp; decide +kernel)
    · exact h1 0 _ (by simp; decide +kernel)
    · exact h1 1 _ (by simp; decide +kernel)
    · exact h1 0 _ (by simp; decide +kernel)
    all_goals exact h1 0 _ (by simp; decide +kernel)
  · simp
    exact Or.inr ⟨by decide +kernel, by decide +kernel, 1, by decide +kernel, by decide, by decide +kernel⟩

/-! ### Witnesses: invariants -/

theorem witness_invariants (h1 : Obligations.CanonicalMemoryKept) (h2 : Obligations.CursorStaysInRange)
    (h3 : Obligations.RegistersStayLegal) (h4 : Obligations.FrameStaysLegal) (h5 : Obligations.ChannelsStayLegal)
    (h6 : Obligations.SubbandTablesStayLegal) (h7 : Obligations.ParametersNeverChange) :
    ∃ t, step (hosted base (hostWrite 0x30 0xFF)) = .next t ∧ t.canonical = true ∧ t.cursorLegal ∧
      (t.statusLegal = true ∧ t.registersLegal = true) ∧ t.frameLegal ∧ t.channelsLegal ∧ t.tablesLegal ∧ t.cfg = prm :=
  ⟨_, rfl, h1 (hosted base (hostWrite 0x30 0xFF)) _ (by decide) rfl, h2 (hosted base (hostWrite 0x30 0xFF)) _ (by decide : (0:Nat) ≤ 0) rfl,
    h3 (hosted base (hostWrite 0x30 0xFF)) _ (by decide) (by decide) rfl, h4 (hosted base (hostWrite 0x30 0xFF)) _ frame_base rfl,
    h5 (hosted base (hostWrite 0x30 0xFF)) _ frame_base channels_base rfl, h6 (hosted base (hostWrite 0x30 0xFF)) _ tables_base rfl,
    h7 (hosted base (hostWrite 0x30 0xFF)) _ rfl⟩


/-! ### Witnesses: the host's side -/

theorem witness_CmdWriteIssues (h : Obligations.CmdWriteIssues) :
    (∃ t, step (hosted base (hostWrite 0x0C 0x05000000)) = .next t ∧ t.status.busy = true) ∧
    (∃ t, step (hosted base (hostRead 0x0C)) = .next t ∧ t.rdata = 0) ∧ step base = .next base :=
  ⟨⟨_, h.1 _ _ _ _ rfl rfl, rfl⟩, ⟨_, h.2.1 _ _ _ rfl rfl, rfl⟩, h.2.2 _ rfl rfl⟩

/-- A command is in progress and the host does not wait for its end. -/
def impatient (v : Word) (offset size : Nat) (write : Option Word) : State :=
  { issued base v with hostQ := [⟨offset, size, write, true⟩] }

theorem witness_HostDuties (h : Obligations.HostDuties) :
    step (hosted base ⟨0x08, 2, none, false⟩) = .fault .hostAccessNotAWord ∧
    step (impatient 0 0x02 4 none) = .fault .hostAccessNotAWord ∧
    (∃ t, step (impatient 0 0x08 4 none) = .next t ∧ t.rdata = 1) ∧
    (∃ t, step (impatient 0 0x04 4 (some 2)) = .next t ∧ t.ctrl.ieDone = true) ∧
    step (impatient 0 0x08 4 (some 8)) = .fault .hostAccessWhileBusy ∧
    step (impatient 0 0x0C 4 none) = .fault .hostAccessWhileBusy :=
  ⟨(h _ _ _ rfl).1 (.inl rfl) (by decide), (h _ _ _ rfl).1 (.inr rfl) (by decide),
    ⟨_, ((h (impatient 0 0x08 4 none) _ _ rfl).2 rfl rfl rfl rfl).1 rfl rfl, by decide⟩,
    ⟨_, ((h (impatient 0 0x04 4 (some 2)) _ _ rfl).2 rfl rfl rfl rfl).2.1 2 rfl rfl (by decide), by decide⟩,
    ((h (impatient 0 0x08 4 (some 8)) _ _ rfl).2 rfl rfl rfl rfl).2.2 (by decide) (by decide),
    ((h (impatient 0 0x0C 4 none) _ _ rfl).2 rfl rfl rfl rfl).2.2 (by decide) (by decide)⟩

theorem witness_RegisterReads (h : Obligations.RegisterReads) :
    (∃ t, step (hosted base (hostRead 0)) = .next t ∧ t.rdata = 0xC0DE) ∧
    (∃ t, step (hosted base (hostRead 0x34)) = .next t ∧ t.rdata = 0) :=
  ⟨⟨_, h _ _ _ _ rfl rfl (by decide) (by decide), rfl⟩, ⟨_, h _ _ _ _ rfl rfl (by decide) (by decide), rfl⟩⟩

theorem witness_RegisterWrites (h : Obligations.RegisterWrites) :
    ∀ offset ∈ [0x00, 0x04, 0x08, 0x10, 0x14, 0x2C, 0x34], ∃ t, step (hosted base (hostWrite offset 0xFE)) = .next t ∧
      (offset = 0x10 → t = { hosted base (hostWrite offset 0xFE) with hostQ := [], arg0 := 0xFE }) := by
  intro offset ho
  simp only [List.mem_cons, List.not_mem_nil, or_false] at ho
  have h1 := h (hosted base (hostWrite offset 0xFE)) offset 0xFE false [] rfl rfl
  rcases ho with rfl | rfl | rfl | rfl | rfl | rfl | rfl <;>
    exact (h1 (by decide) (by decide) (by decide) (by decide)).imp fun t ht => ⟨ht.1, ht.2.2.2.1⟩

/-- An access of HDATA at element `index` of `space`. -/
def hdata (space index : Nat) (write : Option Word) : State :=
  { base with haddr := BitVec.ofNat 32 (space * 2 ^ 28 + index), hostQ := [⟨0x30, 4, write, false⟩] }

/-- The last element of each space, read; the last writable ones, written. -/
theorem witness_HdataMovesOneElement (h : Obligations.HdataMovesOneElement) :
    (∀ e ∈ [(0, 16383), (1, 32767), (2, 16383), (3, 32767), (4, 16383)],
      ∃ t, step (hdata e.1 e.2 none) = .next t ∧ t.status = base.status) ∧
    (∀ e ∈ [(0, 16383), (1, 32767), (3, 32767)], ∃ t, step (hdata e.1 e.2 (some 7)) = .next t ∧
      ∀ a, t.simElem a = if e.1 = 1 ∧ a = e.2 then 7 else (hdata e.1 e.2 (some 7)).simElem a) := by
  constructor <;> intro e he <;> simp only [List.mem_cons, List.not_mem_nil, or_false] at he
  · have h1 := h (hdata e.1 e.2 none) e.1 e.2 false [] rfl
    rcases he with rfl | rfl | rfl | rfl | rfl <;>
      exact ⟨_, (h1 (by decide) (by decide) (by decide) (by decide)).1 rfl, rfl⟩
  · have h1 := h (hdata e.1 e.2 (some 7)) e.1 e.2 false [] rfl
    rcases he with rfl | rfl | rfl <;>
      exact ((h1 (by decide) (by decide) (by decide) (by decide)).2 7 rfl (by decide) (by decide)).imp
        fun t ht => ⟨ht.1, ht.2.2.2.1⟩

theorem witness_OutOfRangeHostAccess (h : Obligations.OutOfRangeHostAccess) :
    ∀ e ∈ [(5, 0, none), (15, 0, none), (0, 16384, none), (1, 32768, some 1), (2, 0, some 1), (4, 16383, some 1)],
      ∃ t, step (hdata e.1 e.2.1 e.2.2) = .next t ∧ t.status.herr = true := by
  intro e he
  have h1 := h (hdata e.1 e.2.1 e.2.2) e.1 e.2.1 e.2.2 false [] rfl
  simp only [List.mem_cons, List.not_mem_nil, or_false] at he
  rcases he with rfl | rfl | rfl | rfl | rfl | rfl <;> exact ⟨_, h1 (by decide) rfl (by decide), rfl⟩

theorem witness_BlockReset (h : Obligations.BlockReset) :
    ∃ t, step (hosted (opened [1] []) (hostWrite 0x04 0x1F)) = .next t ∧ t.bsm = (opened [1] []).bsm :=
  (h.1 _ _ _ _ rfl rfl (by decide)).imp fun _ ht => ⟨ht.1, ht.2.2.2.1⟩

/-- A block reset while QMFS executes, and while FCOMMIT does. -/
theorem witness_AbandonedCommand (h : Obligations.AbandonedCommand) :
    ∀ v ∈ [0x51000000#32, 0x03000000#32], ∃ t, step (impatient v 0x04 4 (some 1)) = .next t ∧ t.bsm = base.bsm :=
  fun v _ => (h (impatient v 0x04 4 (some 1)) 1 [] rfl rfl (by decide)).imp fun _ ht => ⟨ht.1, ht.2.2.2.1⟩

/-! ### Witnesses: control commands -/

theorem witness_ChresetResetsOneSlot (h : Obligations.ChresetResetsOneSlot) :
    exec (.chreset 8) base = .next (base.failedWith 6) ∧ exec (.chreset 7) failed = .next failed.ended ∧
    (∃ t, exec (.chreset 7) base = .next t ∧ t = { base.ended with w := t.w, k := t.k }) ∧
    ∃ t, exec (.chreset 0) (opened [] []) = .next t ∧ t = { (opened [] []).ended with w := t.w, k := t.k } :=
  ⟨(h base 8).1 (by decide), ((h failed 7).2 (by decide)).1 rfl rfl,
    (((h base 7).2 (by decide)).2 (by decide)).imp fun _ ht => ⟨ht.1, ht.2.1⟩,
    (((h (opened [] []) 0).2 (by decide)).2 (by decide)).imp fun _ ht => ⟨ht.1, ht.2.1⟩⟩

/-- The last byte of BSM and counter 1023 are legal, one more of either is not; a broken sequence. -/
theorem witness_FbeginOpensFrame (h : Obligations.FbeginOpensFrame) :
    (∃ t, exec (.fbegin 8 0 0 true true) { base with arg0 := 0x03FF3FFF, arg1 := 1 } = .next t ∧ t.seq.toNat = 2 ^ 31 + 1023) ∧
    (∃ s : State, s = { base with arg0 := 0x04003FFF, arg1 := 1 } ∧
      exec (.fbegin 8 0 0 true true) s = .next (s.failedWith 6)) ∧
    (∃ s : State, s = { base with arg0 := 0x00003FFF, arg1 := 2 } ∧
      exec (.fbegin 8 0 0 true false) s = .next (s.failedWith 6)) ∧
    exec (.fbegin 9 0 0 true false) base = .next (base.failedWith 6) ∧
    exec (.fbegin 0 0 0 true false) failed = .next (failed.failedWith 6) ∧
    ∃ t, exec (.fbegin 5 0 1 true true) { base with seq := 0x80000005, arg0 := 0x00070000 } = .next t ∧ t.status.warncode = 16 :=
  ⟨((h _ 8 0 0 true true).2 (by decide)).imp fun _ ht => ⟨ht.1, ht.2.2.2.2.2.2.2.2.2.2.2.2.1 rfl⟩,
    ⟨_, rfl, (h _ 8 0 0 true true).1 (by decide)⟩, ⟨_, rfl, (h _ 8 0 0 true false).1 (by decide)⟩,
    (h _ 9 0 0 true false).1 (by decide), (h _ 0 0 0 true false).1 (by decide),
    ((h { base with seq := 0x80000005, arg0 := 0x00070000 } 5 0 1 true true).2 (by decide)).imp fun _ ht =>
      ⟨ht.1, by rw [ht.2.2.2.2.2.2.2.2.2.2.2.2.2.2.2.2 (by decide)]; rfl⟩⟩

theorem witness_FcommitEndsFrame (h : Obligations.FcommitEndsFrame) :
    exec .fcommit base = .next (base.failedWith 6) ∧
    exec .fcommit (staged (opened [] []) 7 [.layout]) = .next ((staged (opened [] []) 7 [.layout]).failedWith 6) ∧
    (∃ t, exec .fcommit failed = .next t ∧ t.k = failed.k) ∧
    ∃ t, exec .fcommit (opened [] []) = .next t ∧ t.k = (opened [] []).w :=
  ⟨(h base).1 rfl, (h (staged (opened [] []) 7 [.layout])).2.1 ⟨rfl, rfl⟩ ⟨7, by decide +kernel, by decide +kernel⟩,
    ((h failed).2.2 rfl (.inl rfl)).imp fun _ ht => ⟨ht.1, ht.2.2.2.2.2.2.2.2.2.1⟩,
    ((h (opened [] [])).2.2 rfl (.inr (by decide +kernel))).imp fun _ ht => ⟨ht.1, ht.2.2.2.2.2.2.2.2.2.1⟩⟩

theorem witness_FabortEndsFrame (h : Obligations.FabortEndsFrame) :
    exec .fabort base = .next (base.failedWith 6) ∧ ∃ t, exec .fabort failed = .next t ∧ t.k = failed.k :=
  ⟨(h base).1 rfl, ((h failed).2 rfl).imp fun _ ht => ⟨ht.1, ht.2.2.2.2.2.2.2.2.2.1⟩⟩

/-- Two groups of one window of 256 samples, with two bands and none. -/
def layoutSim : List (Nat × Word) := [(0, 2), (0x10, 1), (0x11, 1), (0x20, 256), (0x21, 256), (0x30, 2)]

theorem layout_legal : (opened [] layoutSim).layoutLegal 0 := by
  unfold State.layoutLegal
  decide +kernel

theorem layout_illegal : ¬(opened [] [(0, 17)]).layoutLegal 0 := fun hl => absurd hl.2.1 (by decide +kernel)

theorem witness_SetlayoutLoadsLayout (h : Obligations.SetlayoutLoadsLayout) :
    exec (.setlayout 0) (opened [] [(0, 17)]) = .next ((opened [] [(0, 17)]).failedWith 4) ∧
    ∃ t, exec (.setlayout 0) (opened [] layoutSim) = .next t ∧ gridsKept (opened [] layoutSim) t :=
  ⟨(h _ 0 (running_opened _ _) (by decide) (by decide +kernel)).1 layout_illegal,
    ((h _ 0 (running_opened _ _) (by decide) (by decide +kernel)).2 layout_legal).imp fun _ ht => ⟨ht.1, ht.2.2.1⟩⟩


/-! ### Witnesses: BitReader commands -/

theorem cursor_opened (l : List Byte) (sim : List (Nat × Word)) : (opened l sim).cursorLegal := Nat.zero_le _

/-- No frame; 33 bits; one bit past the range; all 32 bits; none. -/
theorem witness_RdbitsReadsField (h : Obligations.RdbitsReadsField) :
    exec (.rdbits 1) base = .next (base.failedWith 6) ∧
    exec (.rdbits 33) (opened [1] []) = .next ((opened [1] []).failedWith 6) ∧
    exec (.rdbits 9) (opened [1] []) = .next ((opened [1] []).failedWith 1) ∧
    (∃ t, exec (.rdbits 32) (opened [1, 2, 3, 4] []) = .next t ∧ t.bitpos = 32) ∧
    ∃ t, exec (.rdbits 0) (opened [] []) = .next t ∧ t.bitpos = 0 :=
  ⟨(h base 1 (Nat.zero_le _)).1 rfl, (h _ 33 (cursor_opened _ _)).2.1 (running_opened _ _) (by decide),
    (h _ 9 (cursor_opened _ _)).2.2.1 (running_opened _ _) (by decide) (by decide),
    ⟨_, ((h _ 32 (cursor_opened _ _)).2.2.2 (running_opened _ _) (by decide) (by decide)).1, by decide⟩,
    ⟨_, ((h _ 0 (cursor_opened _ _)).2.2.2 (running_opened _ _) (by decide) (by decide)).1, by decide⟩⟩

/-- No frame; the stop bit is the last of the range; MAXLEN bits end it; it ends first; MAXLEN = 0. -/
theorem witness_RdunaryCounts (h : Obligations.RdunaryCounts) :
    exec (.rdunary false 3) base = .next (base.failedWith 6) ∧
    (∃ t, exec (.rdunary false 8) (opened [0xFE] []) = .next t ∧ t.bitpos = 8) ∧
    (∃ t, exec (.rdunary false 8) (opened [0xFF] []) = .next t ∧ t.result = 8) ∧
    exec (.rdunary false 9) (opened [0xFF] []) = .next ((opened [0xFF] []).failedWith 1) ∧
    ∃ t, exec (.rdunary false 0) (opened [] []) = .next t ∧ t.result = 0 :=
  ⟨(h base false 3 (Nat.zero_le _)).1 rfl,
    ⟨_, (h (opened [0xFE] []) false 8 (cursor_opened _ _)).2.1 7 (by decide) (running_opened _ _) (by decide +kernel)
      (by decide) (by decide +kernel), rfl⟩,
    ⟨_, (h (opened [0xFF] []) false 8 (cursor_opened _ _)).2.2.1 (running_opened _ _) (by decide +kernel) (by decide), rfl⟩,
    (h (opened [0xFF] []) false 9 (cursor_opened _ _)).2.2.2 8 (by decide) (running_opened _ _) (by decide +kernel)
      (by decide),
    ⟨_, (h (opened [] []) false 0 (cursor_opened _ _)).2.2.1 (running_opened _ _) (by decide) (by decide), rfl⟩⟩

/-- Bits that the range begins with, checked on the bytes. -/
theorem holds_bits {s : State} {p : Nat} {l : List Bool}
    (h : (decide (p + l.length ≤ s.bitlen.toNat) && (List.finRange l.length).all (fun k => s.bitAt (p + k) == l[k])) = true) :
    s.holdsBits p l := by
  simp only [Bool.and_eq_true, decide_eq_true_eq, List.all_eq_true, List.mem_finRange, true_implies, beq_iff_eq] at h
  exact ⟨h.1, fun k hk => h.2 ⟨k, hk⟩⟩

/-- No frame; no table; a codeword at the end of the range; malformed bits; an empty range; half a codeword. -/
theorem witness_RdvlcDecodesCodeword (h : Obligations.RdvlcDecodesCodeword) :
    exec (.rdvlc 1) base = .next (base.failedWith 6) ∧
    exec (.rdvlc 200) (opened [] []) = .next ((opened [] []).failedWith 6) ∧
    (∃ t, exec (.rdvlc 1) { opened [0x02] [] with bitpos := 6 } = .next t ∧ t.result = 3) ∧
    (∃ s : State, s = opened [0xC0] [] ∧ exec (.rdvlc 2) s = .next (s.failedWith 2)) ∧
    exec (.rdvlc 1) (opened [] []) = .next ((opened [] []).failedWith 1) ∧
    ∃ s : State, s = { opened [0x01] [] with bitpos := 7 } ∧ exec (.rdvlc 1) s = .next (s.failedWith 1) :=
  ⟨(h base 1 (Nat.zero_le _)).1 rfl, (h _ 200 (cursor_opened _ _)).2.1 (running_opened _ _) (by decide),
    ⟨_, ((h { opened [0x02] [] with bitpos := 6 } 1 (by decide : (6 : Nat) ≤ 8)).2.2 _ ⟨rfl, rfl⟩ rfl (by decide +kernel)).1 ⟨2, 2, 3⟩
      (by decide) (holds_bits (by decide +kernel)), rfl⟩,
    ⟨_, rfl, ((h (opened [0xC0] []) 2 (cursor_opened _ _)).2.2 _ ⟨rfl, rfl⟩ rfl (by decide +kernel)).2.1 2 (by decide) (by decide)
      (by
        intro e he _ hb
        simp only [List.mem_cons, List.not_mem_nil, or_false] at he
        rcases he with rfl | rfl
        · exact absurd (hb.2 0 (by decide)) (by decide +kernel)
        · exact absurd (hb.2 1 (by decide)) (by decide +kernel))
      (by
        intro e he hl hb
        simp only [List.mem_cons, List.not_mem_nil, or_false] at he
        rcases he with rfl | rfl
        · exact absurd hl (by decide)
        · exact absurd (hb.2 1 (by decide)) (by decide +kernel))⟩,
    ((h (opened [] []) 1 (cursor_opened _ _)).2.2 _ ⟨rfl, rfl⟩ rfl (by decide +kernel)).2.2.1 rfl,
    ⟨_, rfl, ((h { opened [0x01] [] with bitpos := 7 } 1 (by decide : (7 : Nat) ≤ 8)).2.2 _ ⟨rfl, rfl⟩ rfl (by decide +kernel)).2.2.2
      ⟨2, 2, 3⟩ (by decide) (by decide) (holds_bits (by decide +kernel))⟩⟩

/-- BASE 0 and 17; the value at its bound; above it after a chunk, after an extension; a range that ends in a chunk,
before a flag. -/
theorem witness_RdescReadsEscapedInteger (h : Obligations.RdescReadsEscapedInteger) :
    exec (.rdesc 2) base = .next (base.failedWith 6) ∧
    exec (.rdesc 0) (opened [] []) = .next ((opened [] []).failedWith 6) ∧
    exec (.rdesc 17) (opened [] []) = .next ((opened [] []).failedWith 6) ∧
    (∃ t, exec (.rdesc 2) { opened [0xA8] [] with arg0 := 13 } = .next t ∧ t.bitpos = 6) ∧
    (∃ s : State, s = { opened [0xA8] [] with arg0 := 12 } ∧ exec (.rdesc 2) s = .next (s.failedWith 3)) ∧
    (∃ s : State, s = { opened [0xA8] [] with arg0 := 11 } ∧ exec (.rdesc 2) s = .next (s.failedWith 3)) ∧
    (∃ s : State, s = { opened [0x05] [] with arg0 := 100, bitpos := 5 } ∧ exec (.rdesc 2) s = .next (s.failedWith 1)) ∧
    ∃ s : State, s = { opened [0x02] [] with arg0 := 100, bitpos := 6 } ∧ exec (.rdesc 2) s = .next (s.failedWith 1) :=
  ⟨(h base 2 (Nat.zero_le _)).1 rfl, (h _ 0 (cursor_opened _ _)).2.1 (running_opened _ _) (.inl (by decide)),
    (h _ 17 (cursor_opened _ _)).2.1 (running_opened _ _) (.inr (by decide)),
    ⟨_, ((h { opened [0xA8] [] with arg0 := 13 } 2 (Nat.zero_le _)).2.2 [2] 1 ⟨rfl, rfl⟩ (by decide) (by decide) (by decide)
      (by decide)).1 (holds_bits (by decide +kernel)) (by decide), rfl⟩,
    ⟨_, rfl, ((h { opened [0xA8] [] with arg0 := 12 } 2 (Nat.zero_le _)).2.2 [2] 1 ⟨rfl, rfl⟩ (by decide) (by decide) (by decide)
      (by decide)).2.1 (holds_bits (by decide +kernel)) (by decide) (by decide)⟩,
    ⟨_, rfl, ((h { opened [0xA8] [] with arg0 := 11 } 2 (Nat.zero_le _)).2.2 [] 2 ⟨rfl, rfl⟩ (by decide) (by decide) (by decide)
      (by decide)).2.2.1 (holds_bits (by decide +kernel)) (by decide) (by decide)⟩,
    ⟨_, rfl, ((h { opened [0x05] [] with arg0 := 100, bitpos := 5 } 2 (by decide : (5 : Nat) ≤ 8)).2.2 [2] 0 ⟨rfl, rfl⟩ (by decide)
      (by decide) (by decide) (by decide)).2.2.2.1 (holds_bits (by decide +kernel)) (by decide) (by decide)⟩,
    ⟨_, rfl, ((h { opened [0x02] [] with arg0 := 100, bitpos := 6 } 2 (by decide : (6 : Nat) ≤ 8)).2.2 [] 2 ⟨rfl, rfl⟩ (by decide)
      (by decide) (by decide) (by decide)).2.2.2.2 (holds_bits (by decide +kernel)) (by decide) (by decide)⟩⟩

/-! ### Witnesses: spectral front end -/

/-- SC4; SC2; SC5; a range that ends before a codebook, and inside a run; a missing group; LENBITS = 0. -/
theorem witness_SectReadsSections (h : Obligations.SectReadsSections) :
    (∃ t, exec (.sect 0 0 2) (laidOut (opened [0x3D] []) 0 4 [.layout]) = .next t ∧ t.bitpos.toNat = 8) ∧
    (∃ s : State, s = laidOut (opened [0x1E, 0x40] []) 0 3 [.layout] ∧ exec (.sect 0 0 3) s = .next (s.failedWith 4)) ∧
    (∃ s : State, s = laidOut (opened [0xC0] []) 0 2 [.layout] ∧ exec (.sect 0 0 3) s = .next (s.failedWith 4)) ∧
    (∃ s : State, s = { laidOut (opened [0x02] []) 0 2 [.layout] with bitpos := 5 } ∧
      exec (.sect 0 0 3) s = .next (s.failedWith 1)) ∧
    (∃ s : State, s = laidOut (opened [0x1F] []) 0 9 [.layout] ∧ exec (.sect 0 0 3) s = .next (s.failedWith 1)) ∧
    exec (.sect 0 15 3) (opened [] []) = .next ((opened [] []).failedWith 6) ∧
    exec (.sect 0 0 0) (opened [] []) = .next ((opened [] []).failedWith 6) := by
  refine ⟨?_, ⟨_, rfl, ?_⟩, ⟨_, rfl, ?_⟩, ⟨_, rfl, ?_⟩, ⟨_, rfl, ?_⟩, ?_, ?_⟩
  · have h1 := (h (laidOut (opened [0x3D] []) 0 4 [.layout]) 0 0 2 [(3, 4)] ⟨rfl, rfl⟩ (by decide)).2.2 (by decide +kernel)
      (by decide +kernel) (by decide) (by decide +kernel) (Nat.zero_le _) (by decide)
    exact (h1.1 (holds_bits (by decide +kernel)) (by decide +kernel) (by decide)).imp
      fun _ ht => ⟨ht.1, ht.2.2.2.2.1⟩
  · have h1 := (h (laidOut (opened [0x1E, 0x40] []) 0 3 [.layout]) 0 0 3 [] ⟨rfl, rfl⟩ (by decide)).2.2 (by decide +kernel)
      (by decide +kernel) (by decide) (by decide +kernel) (Nat.zero_le _) (by decide)
    exact (h1.2 (by decide +kernel) 1 (by decide)).2.1 8 (holds_bits (by decide +kernel)) (by decide) (by decide +kernel)
  · have h1 := (h (laidOut (opened [0xC0] []) 0 2 [.layout]) 0 0 3 [] ⟨rfl, rfl⟩ (by decide)).2.2 (by decide +kernel)
      (by decide +kernel) (by decide) (by decide +kernel) (Nat.zero_le _) (by decide)
    exact (h1.2 (by decide +kernel) 12 (by decide)).1 (holds_bits (by decide +kernel)) (by decide) (by decide)
  · have h1 := (h { laidOut (opened [0x02] []) 0 2 [.layout] with bitpos := 5 } 0 0 3 [] ⟨rfl, rfl⟩ (by decide)).2.2 (by decide +kernel)
      (by decide +kernel) (by decide) (by decide +kernel) (by decide : (5 : Nat) ≤ 8) (by decide)
    exact (h1.2 (by decide +kernel) 0 (by decide)).2.2.1 (holds_bits (by decide +kernel)) (by decide +kernel)
  · have h1 := (h (laidOut (opened [0x1F] []) 0 9 [.layout]) 0 0 3 [] ⟨rfl, rfl⟩ (by decide)).2.2 (by decide +kernel)
      (by decide +kernel) (by decide) (by decide +kernel) (Nat.zero_le _) (by decide)
    exact (h1.2 (by decide +kernel) 1 (by decide)).2.2.2 1 (holds_bits (by decide +kernel)) (by decide) (by decide +kernel)
  · exact (h (opened [] []) 0 15 3 [] ⟨rfl, rfl⟩ (by decide)).1 (by decide +kernel)
  · exact (h (opened [] []) 0 0 0 [] ⟨rfl, rfl⟩ (by decide)).2.1 rfl

/-- TU6 with its escape; the same one bit short; nine ones in the escape; and TU4. -/
theorem witness_TuplesDecodeAsSpelled (h : Obligations.TuplesDecodeAsSpelled) :
    decodeTuple (opened [0x30, 0xC0] []) ⟨2, false, 16, true⟩ 5 0 = .ok ([35, -3], 10) ∧
    decodeTuple { opened [0x30, 0xC0] [] with bitlen := 9 } ⟨2, false, 16, true⟩ 5 0 = .error (.fatal .truncated) ∧
    decodeTuple (opened [0x3F, 0xF0] []) ⟨2, false, 16, true⟩ 5 0 = .error (.fatal .outOfRange) ∧
    decodeTuple (opened [0x80] []) ⟨4, true, 1, false⟩ 4 0 = .error (.fatal .malformedCode) :=
  ⟨((h (opened [0x30, 0xC0] []) ⟨2, false, 16, true⟩ 11 5 0 _ ⟨0, 1, 275⟩ [35, -3] rfl rfl (by decide +kernel) (by decide)).1
      (by decide) (by decide)).1 (holds_bits (by decide +kernel)),
    ((h { opened [0x30, 0xC0] [] with bitlen := 9 } ⟨2, false, 16, true⟩ 11 5 0 _ ⟨0, 1, 275⟩ [35, -3] rfl rfl
      (by decide +kernel) (by decide)).1 (by decide) (by decide)).2.1 9 (by decide) rfl (holds_bits (by decide +kernel)),
    ((h (opened [0x3F, 0xF0] []) ⟨2, false, 16, true⟩ 11 5 0 _ ⟨0, 1, 275⟩ [35, -3] rfl rfl (by decide +kernel) (by decide)).1
      (by decide) (by decide)).2.2 [] 35 [-3] rfl rfl (by decide) (holds_bits (by decide +kernel)),
    (h (opened [0x80] []) ⟨4, true, 1, false⟩ 1 4 0 _ ⟨1, 1, 81⟩ [] rfl rfl (by decide +kernel) (by decide)).2
      (holds_bits (by decide +kernel)) (by decide)⟩

/-- The four samples of band 0 of `laid`. -/
theorem laid_mapAt (ms k : Nat) (hk : k < 2048) : (laid ms).mapAt k = if k < 4 then some (0, 0) else none := by
  simp only [ChannelState.mapAt, atD, laid, Vector.getElem?_ofFn, hk, dif_pos, Option.getD_some]

/-- The samples of a layout whose first `n` samples are in band 0 of group 0. -/
theorem samples_first {x : ChannelState} {n : Nat} (hn : n ≤ maxTlen)
    (hx : x.smap = Vector.ofFn (fun t => if t.val < n then some (0, 0) else none)) : x.samples 0 0 = List.range n := by
  have hm (k : Nat) (hk : k < maxTlen) : x.mapAt k = if k < n then some (0, 0) else none := by
    simp only [ChannelState.mapAt, atD, hx, Vector.getElem?_ofFn, hk, dif_pos, Option.getD_some]
  obtain ⟨r, hr⟩ := Nat.exists_eq_add_of_le hn
  rw [ChannelState.samples, hr, List.range_add, List.filter_append, List.filter_eq_self.2, List.filter_eq_nil_iff.2,
    List.append_nil]
  · intro k hk
    obtain ⟨j, hj, rfl⟩ := List.mem_map.1 hk
    rw [hm _ (by rw [hr]; exact Nat.add_lt_add_left (List.mem_range.1 hj) n), if_neg (by omega)]
    decide
  · intro k hk
    rw [hm k (Nat.lt_of_lt_of_le (List.mem_range.1 hk) hn), if_pos (List.mem_range.1 hk)]
    decide

theorem laid_samples (ms : Nat) : (laid ms).samples 0 0 = [0, 1, 2, 3] :=
  samples_first (n := 4) (show 4 ≤ 2048 by omega) rfl

/-- The group of `laid` as SPEC and SF find it: codebook and magnitude of each band, and the stages `xs` done. -/
def banded (l : List Byte) (cb mag : List Nat) (xs : List Stage) : State :=
  withBands (laidOut (opened l []) 0 cb.length xs) cb mag

theorem banded_wAt (l : List Byte) (cb mag : List Nat) (g : Stage) : (banded l cb mag [g]).wAt 0 = laid cb.length := by
  show ((opened l []).setW 0 (laid cb.length)).wAt 0 = _
  simp

theorem laid_wins (ms : Nat) : ∀ w ∈ (laid ms).wins, w.off + w.len ≤ 2048 := by
  intro w hw
  simp only [laid, List.mem_cons, List.not_mem_nil, or_false] at hw
  subst hw
  decide

/-- `laid 1` with three samples in its band. -/
def oddLayout : ChannelState :=
  { laid 1 with smap := Vector.ofFn (fun t => if t.val < 3 then some (0, 0) else none) }

theorem odd_samples : oddLayout.samples 0 0 = [0, 1, 2] := samples_first (n := 3) (show 3 ≤ 2048 by omega) rfl

/-- That layout under codebook 3. -/
def oddBand : State := withBands (staged ((opened [0x40] []).setW 0 oddLayout) 0 [.sect 0]) [3] [0]

/-- The samples of a run that is band 0 of group 0. -/
theorem first_run {y : ChannelState} {l : List Nat} (h : y.samples 0 0 = l) :
    ((List.range' (runBooks []).length 1).flatMap (y.samples (0 : BitVec 4).toNat)).length = l.length := by
  rw [← h]
  exact congrArg List.length (List.append_nil _)

/-- One band of four samples under codebook 3 whose tuple is (0, 0, −1, 2); under codebook 0; a band without a codebook;
three samples under a codebook of dimension 4; a tuple past the end of the range. -/
theorem witness_SpecReadsCoefficients (h : Obligations.SpecReadsCoefficients) :
    (∃ t, exec (.spec 0 0) (banded [0x40] [3] [0] [.sect 0]) = .next t ∧ t.bitpos.toNat = 3) ∧
    (∃ t, exec (.spec 0 0) (banded [] [0] [0] [.sect 0]) = .next t ∧ t.bitpos.toNat = 0) ∧
    (∃ s : State, s = laidOut (opened [] []) 0 1 [.sect 0] ∧ exec (.spec 0 0) s = .next (s.failedWith 6)) ∧
    exec (.spec 0 0) oddBand = .next (oddBand.failedWith 4) ∧
    ∃ s : State, s = banded [] [3] [0] [.sect 0] ∧ exec (.spec 0 0) s = .next (s.failedWith 1) := by
  have hb (l : List Byte) (cb : Nat) : (banded l [cb] [0] [.sect 0]).wAt (slotOf 0) = laid 1 := banded_wAt l [cb] [0] (.sect 0)
  have one {P : Nat → Prop} (h0 : P 0) (b : Nat) (hlt : b < 1) : P b := by
    obtain rfl : b = 0 := by omega
    exact h0
  refine ⟨?_, ?_, ⟨_, rfl, ?_⟩, ?_, ⟨_, rfl, ?_⟩⟩
  · refine ((h (banded [0x40] [3] [0] [.sect 0]) 0 0 [(3, 1, [0, 0, -1, 2])] 3 ⟨rfl, rfl⟩ (by decide) (Nat.zero_le _)
      (by decide +kernel) (by decide +kernel) (by decide +kernel) (by decide +kernel)
      (by rw [hb]; exact laid_wins _) (by decide) (by simp) (one (by decide +kernel)) ?_).1 (by decide +kernel)).imp
      fun _ ht => ⟨ht.1, ht.2.2.2.2.1⟩
    rw [hb]
    simp only [runSections, List.range', List.flatMap_cons, List.flatMap_nil, List.append_nil]
    rw [show (0 : BitVec 4).toNat = 0 from rfl, laid_samples]
    refine ⟨3, ?_, rfl⟩
    rw [if_neg (by decide)]
    exact ⟨⟨4, false, 2, false⟩, [[0, 0, -1, 2]], rfl, rfl, rfl, 3, by decide +kernel, rfl⟩
  · refine ((h (banded [] [0] [0] [.sect 0]) 0 0 [(0, 1, [0, 0, 0, 0])] 0 ⟨rfl, rfl⟩ (by decide) (Nat.zero_le _)
      (by decide +kernel) (by decide +kernel) (by decide +kernel) (by decide +kernel)
      (by rw [hb]; exact laid_wins _) (by decide) (by simp) (one (by decide +kernel)) ?_).1 (by decide +kernel)).imp
      fun _ ht => ⟨ht.1, ht.2.2.2.2.1⟩
    rw [hb]
    simp only [runSections, List.range', List.flatMap_cons, List.flatMap_nil, List.append_nil]
    rw [show (0 : BitVec 4).toNat = 0 from rfl, laid_samples]
    refine ⟨0, ?_, rfl⟩
    rw [if_pos rfl]
    exact ⟨rfl, rfl⟩
  · exact ((h (laidOut (opened [] []) 0 1 [.sect 0]) 0 0 [] 0 ⟨rfl, rfl⟩ (by decide) (Nat.zero_le _)
      (by decide +kernel) (by decide +kernel) (by decide +kernel) (by decide +kernel)
      (by
        rw [show (laidOut (opened [] []) 0 1 [.sect 0]).wAt (slotOf 0) = laid 1 from by
          show ((opened [] []).setW 0 (laid 1)).wAt 0 = _
          simp]
        exact laid_wins _) (by simp) (by simp) (by simp [runBooks]) rfl).2 (by decide +kernel) (by simp)).1 (by decide +kernel)
  · have hx : oddBand.wAt (slotOf 0) = oddLayout := by
      show ((opened [0x40] []).setW 0 oddLayout).wAt 0 = _
      rw [wAt_setW]
    refine ((((h oddBand 0 0 [] 0 ⟨rfl, rfl⟩ (by decide) (Nat.zero_le _) (by decide +kernel) (by decide +kernel)
      (by decide +kernel) (by decide +kernel) (by rw [hx]; exact laid_wins 1) (by simp) (by simp) (by simp [runBooks]) rfl).2
      (by decide +kernel) (by simp)).2 3 ⟨4, false, 2, false⟩ 1 (by decide) (by decide +kernel) (by decide) rfl
      (one (by decide +kernel)) (.inl (by decide +kernel))).1 ?_)
    rw [hx, first_run odd_samples]
    decide
  · refine (((h (banded [] [3] [0] [.sect 0]) 0 0 [] 0 ⟨rfl, rfl⟩ (by decide) (Nat.zero_le _) (by decide +kernel)
      (by decide +kernel) (by decide +kernel) (by decide +kernel) (by rw [hb]; exact laid_wins 1) (by simp) (by simp)
      (by simp [runBooks]) rfl).2 (by decide +kernel) (by simp)).2 3 ⟨4, false, 2, false⟩ 1 (by decide) (by decide +kernel)
      (by decide) rfl (one (by decide +kernel)) (.inl (by decide +kernel))).2 [] 0 .truncated ?_ ?_ rfl (by decide +kernel) <;>
    · rw [hb, first_run (laid_samples 1)]
      decide

/-- Two groups of one band each; group 0 left the scale factor 100, and group 1 has an explicit one. -/
def runsOn : State :=
  let s := staged ((opened [0x00] []).setW 0 { laid 1 with ngroups := 2, maxSfb := Vector.replicate 16 1 }) 0 [.spec 1, .sf 0]
  s.setChan 0 { s.chanAt 0 with
    cb := Tab.put (s.chanAt 0).cb [(64, 1)], maxMag := Tab.put (s.chanAt 0).maxMag [(64, 1)]
    sfFirst := some false, sfAcc := some 100, snfAcc := some 10 }

/-- A band with a codebook and a magnitude, and one with codebook 0. -/
theorem scaled_true {f : ChanFrame} {g b : Nat} (h1 : f.cb.at? (64 * g + b) = some 1)
    (h2 : f.maxMag.at? (64 * g + b) = some 1) : f.scaled g b true :=
  ⟨1, h1, by rw [if_neg (by decide)]; exact ⟨1, h2, by decide⟩⟩

theorem scaled_false {f : ChanFrame} {g b : Nat} (h1 : f.cb.at? (64 * g + b) = some 0) : f.scaled g b false :=
  ⟨0, h1, by rw [if_pos rfl]⟩

/-- A group whose first band alone is read, with an explicit scale factor. -/
theorem first_scaled {f : ChanFrame} {g : Nat} (e : VlcEntry) (h1 : f.cb.at? (64 * g) = some 1)
    (h2 : f.maxMag.at? (64 * g) = some 1) (b : Nat) (hb : b < [(true, e)].length) :
    f.scaled g b [(true, e)][b].1 := by
  obtain rfl : b = 0 := by simpa using hb
  exact scaled_true h1 h2

/-- Two bands with a codebook and a magnitude over the bytes `l`, and SF_TABLE = `id`. -/
def twoBands (id : Nat) (l : List Byte) : State :=
  { banded l [1, 1] [1, 1] [.spec 0] with cfg := { prm with sfTable := id } }

/-- SF1; SF3; a second group that runs on from 100; a band without a codebook; a range that ends before the first value,
before a codeword, before a noise-fill value; bits that are no codeword; no table. -/
theorem witness_SfAccumulates (h : Obligations.SfAccumulates) :
    (∃ t, exec (.sf 0 0 false) (banded [0x64, 0x00] [1, 1, 0] [1, 1, 0] [.spec 0]) = .next t ∧ t.bitpos.toNat = 9) ∧
    exec (.sf 0 0 false) (twoBands 3 [0x00, 0x80]) = .next ((twoBands 3 [0x00, 0x80]).failedWith 3) ∧
    (∃ t, exec (.sf 0 1 true) runsOn = .next t ∧ t.bitpos.toNat = 1) ∧
    (∃ s : State, s = laidOut (opened [] []) 0 1 [.spec 0] ∧ exec (.sf 0 0 false) s = .next (s.failedWith 6)) ∧
    exec (.sf 0 0 false) (twoBands 3 []) = .next ((twoBands 3 []).failedWith 1) ∧
    exec (.sf 0 0 false) (twoBands 3 [0x64]) = .next ((twoBands 3 [0x64]).failedWith 1) ∧
    (∃ s : State, s = banded [] [0] [0] [.spec 0] ∧ exec (.sf 0 0 true) s = .next (s.failedWith 1)) ∧
    exec (.sf 0 0 false) (twoBands 2 [0x64, 0xC0]) = .next ((twoBands 2 [0x64, 0xC0]).failedWith 2) ∧
    exec (.sf 0 0 false) (twoBands 200 [0x64]) = .next ((twoBands 200 [0x64]).failedWith 6) := by
  refine ⟨?_, ?_, ?_, ⟨_, rfl, ?_⟩, ?_, ?_, ⟨_, rfl, ?_⟩, ?_, ?_⟩
  · exact ((h (banded [0x64, 0x00] [1, 1, 0] [1, 1, 0] [.spec 0]) 0 0 false ⟨true, 0, 10⟩
      [(true, ⟨0, 0, 100⟩), (true, ⟨0, 1, 62⟩), (false, ⟨0, 0, 0⟩)] ⟨rfl, rfl⟩ (by decide) (Nat.zero_le _) (by decide +kernel)
      (by decide +kernel) (by decide +kernel) (by decide) (by decide +kernel) (by decide +kernel)
      (by
        intro b hb
        rcases b with _ | _ | _ | b
        · exact scaled_true (by decide +kernel) (by decide +kernel)
        · exact scaled_true (by decide +kernel) (by decide +kernel)
        · exact scaled_false (by decide +kernel)
        · simp only [List.length_cons, List.length_nil] at hb
          omega)
      (fun _ => rfl) (by decide) ⟨by decide, by decide +kernel, by decide, trivial⟩ (holds_bits (by decide +kernel))
      (by decide)).1 (by decide +kernel)).imp fun _ ht => ⟨ht.1, ht.2.2.2.2.1⟩
  · exact ((h (twoBands 3 [0x00, 0x80]) 0 0 false ⟨true, 0, 10⟩ [(true, ⟨0, 0, 0⟩)] ⟨rfl, rfl⟩ (by decide) (Nat.zero_le _)
      (by decide +kernel) (by decide +kernel) (by decide +kernel) (by decide) (by decide +kernel) (by decide +kernel)
      (first_scaled _ (by decide +kernel) (by decide +kernel)) (fun _ => rfl) (by decide) ⟨by decide, trivial⟩
      (holds_bits (by decide +kernel)) (by decide)).2 (by decide +kernel)).2.2.1
      (scaled_true (by decide +kernel) (by decide +kernel)) rfl ⟨1, 1, 59⟩ (by decide +kernel) (holds_bits (by decide +kernel))
      (.inl (by decide))
  · exact ((h runsOn 0 1 true ⟨false, 100, 10⟩ [(true, ⟨0, 1, 62⟩)] ⟨rfl, rfl⟩ (by decide) (Nat.zero_le _)
      (by decide +kernel) (by decide +kernel) (by decide +kernel) (by decide +kernel) (by decide +kernel) (by decide +kernel)
      (first_scaled _ (by decide +kernel) (by decide +kernel)) (by decide) (by decide +kernel) ⟨by decide +kernel, trivial⟩
      (holds_bits (by decide +kernel)) (by decide)).1 (by decide +kernel)).imp fun _ ht => ⟨ht.1, ht.2.2.2.2.1⟩
  · refine ((h (laidOut (opened [] []) 0 1 [.spec 0]) 0 0 false ⟨true, 0, 10⟩ [] ⟨rfl, rfl⟩ (by decide) (Nat.zero_le _)
      (by decide +kernel) (by decide +kernel) (by decide +kernel) (by decide) (by decide +kernel) (by decide +kernel)
      (fun b hb => absurd hb (Nat.not_lt_zero b)) (fun _ => rfl) (by decide) trivial (holds_bits (by decide +kernel))
      (by decide)).2 (by decide +kernel)).1 ?_
    rintro explicit ⟨cb, hcb, -⟩
    exact absurd hcb (by rw [show Tab.at? _ _ = (none : Option Nat) from by decide +kernel]; simp)
  · exact ((h (twoBands 3 []) 0 0 false ⟨true, 0, 10⟩ [] ⟨rfl, rfl⟩ (by decide) (Nat.zero_le _)
      (by decide +kernel) (by decide +kernel) (by decide +kernel) (by decide) (by decide +kernel) (by decide +kernel)
      (fun b hb => absurd hb (Nat.not_lt_zero b)) (fun _ => rfl) (by decide) trivial (holds_bits (by decide +kernel))
      (by decide)).2 (by decide +kernel)).2.1 (scaled_true (by decide +kernel) (by decide +kernel)) rfl (by decide +kernel)
  · exact (((h (twoBands 3 [0x64]) 0 0 false ⟨true, 0, 10⟩ [(true, ⟨0, 0, 100⟩)] ⟨rfl, rfl⟩ (by decide) (Nat.zero_le _)
      (by decide +kernel) (by decide +kernel) (by decide +kernel) (by decide) (by decide +kernel) (by decide +kernel)
      (first_scaled _ (by decide +kernel) (by decide +kernel)) (fun _ => rfl) (by decide) ⟨by decide, trivial⟩
      (holds_bits (by decide +kernel)) (by decide)).2 (by decide +kernel)).2.2.2 3
      (.inl ⟨scaled_true (by decide +kernel) (by decide +kernel), rfl, rfl⟩)).2 _ rfl |>.2 (.inl (by decide +kernel))
  · exact (((h (banded [] [0] [0] [.spec 0]) 0 0 true ⟨true, 0, 10⟩ [] ⟨rfl, rfl⟩ (by decide) (Nat.zero_le _)
      (by decide +kernel) (by decide +kernel) (by decide +kernel) (by decide) (by decide +kernel) (by decide +kernel)
      (fun b hb => absurd hb (Nat.not_lt_zero b)) (fun _ => rfl) (by decide) trivial (holds_bits (by decide +kernel))
      (by decide)).2 (by decide +kernel)).2.2.2 3 (.inr ⟨scaled_false (by decide +kernel), rfl, rfl⟩)).2 _ rfl
      |>.2 (.inl (by decide +kernel))
  · refine ((((h (twoBands 2 [0x64, 0xC0]) 0 0 false ⟨true, 0, 10⟩ [(true, ⟨0, 0, 100⟩)] ⟨rfl, rfl⟩ (by decide) (Nat.zero_le _)
      (by decide +kernel) (by decide +kernel) (by decide +kernel) (by decide) (by decide +kernel) (by decide +kernel)
      (first_scaled _ (by decide +kernel) (by decide +kernel)) (fun _ => rfl) (by decide) ⟨by decide, trivial⟩
      (holds_bits (by decide +kernel)) (by decide)).2 (by decide +kernel)).2.2.2 2
      (.inl ⟨scaled_true (by decide +kernel) (by decide +kernel), rfl, rfl⟩)).2 _ rfl).1
      ⟨2, by decide, by decide +kernel, ?_, ?_⟩
    · intro e he _ hb
      simp only [List.mem_cons, List.not_mem_nil, or_false] at he
      rcases he with rfl | rfl
      · exact absurd (hb.2 0 (by decide)) (by decide +kernel)
      · exact absurd (hb.2 1 (by decide)) (by decide +kernel)
    · intro e he hl hb
      simp only [List.mem_cons, List.not_mem_nil, or_false] at he
      rcases he with rfl | rfl
      · exact absurd hl (by decide)
      · exact absurd (hb.2 1 (by decide)) (by decide +kernel)
  · exact (((h (twoBands 200 [0x64]) 0 0 false ⟨true, 0, 10⟩ [(true, ⟨0, 0, 100⟩)] ⟨rfl, rfl⟩ (by decide) (Nat.zero_le _)
      (by decide +kernel) (by decide +kernel) (by decide +kernel) (by decide) (by decide +kernel) (by decide +kernel)
      (first_scaled _ (by decide +kernel) (by decide +kernel)) (fun _ => rfl) (by decide) ⟨by decide, trivial⟩
      (holds_bits (by decide +kernel)) (by decide)).2 (by decide +kernel)).2.2.2 200
      (.inl ⟨scaled_true (by decide +kernel) (by decide +kernel), rfl, rfl⟩)).1 rfl

/-- The payload ends with the range; it is one bit too long; no layout. -/
theorem witness_ArithSkipsAndSilences (h : Obligations.ArithSkipsAndSilences) :
    (∃ t, exec (.arith 0 0) { laidOut (opened [0, 0] []) 0 1 [.layout] with arg0 := 16 } = .next t ∧ t.bitpos.toNat = 16) ∧
    (∃ s : State, s = { laidOut (opened [0, 0] []) 0 1 [.layout] with arg0 := 17 } ∧
      exec (.arith 0 0) s = .next (s.failedWith 1)) ∧
    exec (.arith 0 0) (opened [] []) = .next ((opened [] []).failedWith 6) := by
  have hx (a : Word) : State.wAt { laidOut (opened [0, 0] []) 0 1 [.layout] with arg0 := a } 0 = laid 1 := by
    show ((opened [0, 0] []).setW 0 (laid 1)).wAt 0 = _
    simp
  refine ⟨?_, ⟨_, rfl, ?_⟩, ?_⟩
  · exact ((h { laidOut (opened [0, 0] []) 0 1 [.layout] with arg0 := 16 } 0 0 ⟨rfl, rfl⟩ (by decide)).2.2 (by decide +kernel)
      (by decide +kernel) (by decide) (by decide +kernel) (by rw [show slotOf 0 = 0 from rfl, hx]; exact laid_wins _)).imp
      fun _ ht => ⟨ht.1, ht.2.2.2.2.2.1⟩
  · exact (h { laidOut (opened [0, 0] []) 0 1 [.layout] with arg0 := 17 } 0 0 ⟨rfl, rfl⟩ (by decide)).2.1 (by decide +kernel)
      (by decide +kernel) (by decide)
  · exact (h (opened [] []) 0 0 ⟨rfl, rfl⟩ (by decide)).1 (.inr (by decide +kernel))

/-- A group with a band of four samples: q = 1, −1, 2, 0 and the scale factor 104. -/
def scaled : State :=
  let s := laidOut (opened [] []) 0 1 [.sf 0]
  s.setChan 0 { s.chanAt 0 with
    q := Tab.put (s.chanAt 0).q (indexed 0 [1, -1, 2, 0]), sf := Tab.put (s.chanAt 0).sf [(0, some 104)] }

theorem scaled_wAt : scaled.wAt 0 = laid 1 := by
  show ((opened [] []).setW 0 (laid 1)).wAt 0 = _
  simp

theorem witness_DeqScalesCoefficients (h : Obligations.DeqScalesCoefficients) :
    ∃ t, exec (.deq 0 0) scaled = .next t ∧ t.bitpos = scaled.bitpos := by
  refine (h scaled 0 0 ⟨rfl, rfl⟩ (by decide) (by decide +kernel) (by decide +kernel)
    (by rw [show slotOf 0 = 0 from rfl, scaled_wAt]; exact laid_wins _) ?_).imp fun _ ht => ⟨ht.1, ht.2.2.2.2.1⟩
  intro k hk g b hm
  rw [show slotOf 0 = 0 from rfl, scaled_wAt] at hm
  have hk2 : k < 2048 := by
    by_contra hc
    simp [ChannelState.mapAt, atD, laid, hc] at hm
  rw [laid_mapAt 1 k hk2] at hm
  have h4 : k < 4 := by
    by_contra hc
    simp [hc] at hm
  simp only [h4, if_pos, Option.some.injEq, Prod.mk.injEq] at hm
  obtain ⟨rfl, rfl⟩ := hm
  refine .inr ⟨⟨104, by decide +kernel⟩, ?_⟩
  have : k = 0 ∨ k = 1 ∨ k = 2 ∨ k = 3 := by omega
  rcases this with rfl | rfl | rfl | rfl
  · exact ⟨1, by decide +kernel⟩
  · exact ⟨-1, by decide +kernel⟩
  · exact ⟨2, by decide +kernel⟩
  · exact ⟨0, by decide +kernel⟩


/-! ### Witnesses: stereo, transform, filterbank -/

/-- Slots 0 and 1 are dequantized under one layout of one band of four samples: 3 and 1 in each. -/
def stereoReady (sim : List (Nat × Word)) : State :=
  let s := laidOut (laidOut (opened [] sim) 0 1 [.deq 0]) 1 1 [.deq 0]
  let s := s.setChan 0 { s.chanAt 0 with coef := Tab.put (s.chanAt 0).coef (indexed 0 (List.replicate 4 (R32.ofInt 3))) }
  s.setChan 1 { s.chanAt 1 with coef := Tab.put (s.chanAt 1).coef (indexed 0 (List.replicate 4 (R32.ofInt 1))) }

theorem stereoReady_wAt (sim : List (Nat × Word)) :
    (stereoReady sim).wAt 0 = laid 1 ∧ (stereoReady sim).wAt 1 = laid 1 := by
  constructor
  · show (((opened [] sim).setW 0 (laid 1)).setW 1 (laid 1)).wAt 0 = _
    rw [wAt_setW_other _ _ _ _ (by decide), wAt_setW]
  · show (((opened [] sim).setW 0 (laid 1)).setW 1 (laid 1)).wAt 1 = _
    rw [wAt_setW]

/-- ST2; ST8; equal slots; a flag of 2; no coefficients. -/
theorem witness_StereoAppliesMatrix (h : Obligations.StereoAppliesMatrix) :
    (∃ t, exec (.stereo 0 1) (stereoReady [(0x40, 1)]) = .next t ∧ t.bitpos = 0) ∧
    exec (.stereo 0 1) (stereoReady [(0x40, 4)]) = .next ((stereoReady [(0x40, 4)]).failedWith 4) ∧
    exec (.stereo 7 7) (opened [] []) = .next ((opened [] []).failedWith 6) ∧
    (∃ s : State, s = stereoReady [(0x40, 2), (0x100, 2)] ∧ exec (.stereo 0 1) s = .next (s.failedWith 4)) ∧
    ∃ s : State, s = laidOut (laidOut (opened [] [(0x40, 1)]) 0 1 [.deq 0]) 1 1 [.deq 0] ∧
      exec (.stereo 0 1) s = .next (s.failedWith 6) := by
  refine ⟨?_, ?_, ?_, ⟨_, rfl, ?_⟩, ⟨_, rfl, ?_⟩⟩
  · refine ((((h (stereoReady [(0x40, 1)]) 0 1 ⟨rfl, rfl⟩ (by decide) (by decide)).2 (by decide)
      ⟨by decide +kernel, by decide +kernel, by decide +kernel⟩ ⟨by decide +kernel, by decide +kernel, by decide +kernel⟩).2
      ⟨by decide +kernel, by decide +kernel, by decide +kernel⟩ (by decide +kernel) (by decide +kernel)).2 ?_).imp
      fun _ ht => ⟨ht.1, ht.2.2.2.1⟩
    intro g _ b _
    refine ⟨?_, ?_⟩
    · rintro (⟨e, _⟩ | ⟨e, _⟩) <;> exact absurd e (by decide +kernel)
    · rintro ⟨-, k, hk, hm, hc⟩
      rw [show slotOf 0 = 0 from rfl, (stereoReady_wAt _).1, laid_mapAt 1 k hk] at hm
      have h4 : k < 4 := by
        by_contra hn
        simp [hn] at hm
      have : k = 0 ∨ k = 1 ∨ k = 2 ∨ k = 3 := by omega
      rcases this with rfl | rfl | rfl | rfl <;> rcases hc with hc | hc <;> exact absurd hc (by decide +kernel)
  · exact ((h (stereoReady [(0x40, 4)]) 0 1 ⟨rfl, rfl⟩ (by decide) (by decide)).2 (by decide)
      ⟨by decide +kernel, by decide +kernel, by decide +kernel⟩ ⟨by decide +kernel, by decide +kernel, by decide +kernel⟩).1
      (.inr (.inr (by decide +kernel)))
  · exact (h (opened [] []) 7 7 ⟨rfl, rfl⟩ (by decide) (by decide)).1 rfl
  · exact ((((h (stereoReady [(0x40, 2), (0x100, 2)]) 0 1 ⟨rfl, rfl⟩ (by decide) (by decide)).2 (by decide)
      ⟨by decide +kernel, by decide +kernel, by decide +kernel⟩ ⟨by decide +kernel, by decide +kernel, by decide +kernel⟩).2
      ⟨by decide +kernel, by decide +kernel, by decide +kernel⟩ (by decide +kernel) (by decide +kernel)).1 0 (by decide +kernel) 0
      (by decide +kernel) (by omega)).1 (.inl ⟨by decide +kernel, by decide +kernel, by decide +kernel⟩)
  · refine ((((h (laidOut (laidOut (opened [] [(0x40, 1)]) 0 1 [.deq 0]) 1 1 [.deq 0]) 0 1 ⟨rfl, rfl⟩ (by decide)
      (by decide)).2 (by decide)
      ⟨by decide +kernel, by decide +kernel, by decide +kernel⟩ ⟨by decide +kernel, by decide +kernel, by decide +kernel⟩).2
      ⟨by decide +kernel, by decide +kernel, by decide +kernel⟩ (by decide +kernel) (by decide +kernel)).1 0 (by decide +kernel) 0
      (by decide +kernel) (by omega)).2 (by rintro (⟨e, _⟩ | ⟨e, _⟩) <;> exact absurd e (by decide +kernel))
      ⟨by decide +kernel, 0, by decide, ?_, .inl (by decide +kernel)⟩
    rw [show (laidOut (laidOut (opened [] [(0x40, 1)]) 0 1 [.deq 0]) 1 1 [.deq 0]).wAt (slotOf 0) = laid 1 from by
      show (((opened [] [(0x40, 1)]).setW 0 (laid 1)).setW 1 (laid 1)).wAt 0 = _
      rw [wAt_setW_other _ _ _ _ (by decide), wAt_setW], laid_mapAt 1 0 (by decide)]
    rfl

theorem witness_ImdctWindowFormula (h : Obligations.ImdctWindowFormula) :
    (imdctWindow 512 (ChannelState.reset prm) 2048 #[]).2.length = 2048 := by
  rw [(h 512 2048 (ChannelState.reset prm) #[] (by decide)).1, List.length_map, List.length_range]

/-- Slot 0 is dequantized, one window of four samples, all coefficients 0; `pend` is a pending tail of that length. -/
def imdctReady (pend : Nat) : State :=
  let s := staged ((opened [] []).setW 0 { laid 0 with wins := [⟨0, 4, 0⟩], nprev := pend, flbPrev := pend }) 0 [.deq 0]
  s.setChan 0 { s.chanAt 0 with coef := Tab.put (s.chanAt 0).coef (indexed 0 (List.replicate 4 0)) }

/-- A second window whose coefficients are missing, and TD without a value. -/
def imdctTorn : State :=
  { (imdctReady 0).setW 0 { laid 0 with wins := [⟨0, 4, 0⟩, ⟨4, 4, 0⟩] } with td := ⟨.free 0, []⟩ }

/-- IMDCT raises IllegalCommand at the second window; abandoned before that, it may have written the first one's samples
of TD, and no other (70_reset_and_hazards.md R421). -/
theorem test_abandoned_imdct :
    after (exec (.imdct 0) imdctTorn) (fun t => t.status.errcode) = some 6 ∧
      (issued imdctTorn 0x40000000).abandon.td.cells.map Prod.fst = [0, 1, 2, 3] := by decide +kernel

/-- A fresh channel; MD6; and a tail of the same frameLengthBase. -/
theorem witness_ImdctWritesTimeDomain (h : Obligations.ImdctWritesTimeDomain) :
    (∃ t, exec (.imdct 0) (imdctReady 0) = .next t ∧ t.pcm = base.pcm) ∧
    (∃ t, exec (.imdct 0) (imdctReady 512) = .next t ∧ t.pcm = base.pcm) ∧
    exec (.imdct 0) (imdctReady 1024) = .next ((imdctReady 1024).failedWith 4) := by
  have hw (n : Nat) : (imdctReady n).wAt 0 = { laid 0 with wins := [⟨0, 4, 0⟩], nprev := n, flbPrev := n } := by
    show ((opened [] []).setW 0 { laid 0 with wins := [⟨0, 4, 0⟩], nprev := n, flbPrev := n }).wAt 0 = _
    rw [wAt_setW]
  have go (n : Nat) (hn : n = 0 ∨ n = 512) : ∃ t, exec (.imdct 0) (imdctReady n) = .next t ∧ t.pcm = base.pcm := by
    have h1 := (h (imdctReady n) 0 (fun _ => 0) ⟨rfl, rfl⟩ (by decide)
      (by rcases hn with rfl | rfl <;> decide +kernel) (by rcases hn with rfl | rfl <;> decide +kernel)).2
      (by rw [show slotOf 0 = 0 from rfl, hw]; exact hn) rfl
      (by rw [show slotOf 0 = 0 from rfl, hw]; simp)
      (by
        intro w hm
        rw [show slotOf 0 = 0 from rfl, hw] at hm
        simp only [List.mem_cons, List.not_mem_nil, or_false] at hm
        subst hm
        decide)
      (by
        intro w hm k hk
        rw [show slotOf 0 = 0 from rfl, hw] at hm
        simp only [List.mem_cons, List.not_mem_nil, or_false] at hm
        subst hm
        simp only at hk
        have : k = 0 ∨ k = 1 ∨ k = 2 ∨ k = 3 := by omega
        rcases this with rfl | rfl | rfl | rfl <;> rcases hn with rfl | rfl <;> decide +kernel)
    exact h1.imp fun _ ht => ⟨ht.1, ht.2.2.1⟩
  refine ⟨go 0 (.inl rfl), go 512 (.inr rfl), ?_⟩
  exact (h (imdctReady 1024) 0 (fun _ => 0) ⟨rfl, rfl⟩ (by decide) (by decide +kernel) (by decide +kernel)).1
    (by rw [show slotOf 0 = 0 from rfl, hw]; decide)

/-- A frame of 384 samples in six timeslots, TD all 0, the stages `xs` done in slot 0. -/
def slotted (n : Option Nat) (xs : List Stage) : State :=
  staged { opened [] [] with frame := ⟨384, n, true, 0⟩, pcm := ⟨.value 0, []⟩ } 0 xs

theorem witness_QmfaAnalyses (h : Obligations.QmfaAnalyses) :
    (∃ t, exec (.qmfa 0) (slotted (some 6) [.imdct]) = .next t) ∧
    exec (.qmfa 0) (slotted none [.imdct]) = .next ((slotted none [.imdct]).failedWith 4) := by
  refine ⟨?_, (h (slotted none [.imdct]) 0 ⟨rfl, rfl⟩ (by decide) (by decide +kernel) (by decide +kernel)).1 rfl⟩
  obtain ⟨t, _, _, ht, _⟩ := (h (slotted (some 6) [.imdct]) 0 ⟨rfl, rfl⟩ (by decide) (by decide +kernel) (by decide +kernel)).2 6
    (fun _ => 0) rfl (by decide) (by decide +kernel) (by decide +kernel) (fun _ _ => rfl)
  exact ⟨t, ht⟩

theorem witness_QmfsSynthesizes (h : Obligations.QmfsSynthesizes) :
    (∃ t, exec (.qmfs 0) (slotted (some 32) [.qmfa, .axcfg, .axasm]) = .next t) ∧
    (∃ t, exec (.qmfs 0) (slotted (some 6) [.qmfa]) = .next t) ∧
    exec (.qmfs 0) (slotted none [.qmfa]) = .next ((slotted none [.qmfa]).failedWith 4) := by
  refine ⟨?_, ?_, (h (slotted none [.qmfa]) 0 ⟨rfl, rfl⟩ (by decide) (by decide +kernel) (by decide +kernel) (by decide +kernel)).1 rfl⟩
  · obtain ⟨t, _, ht, _⟩ := (h (slotted (some 32) [.qmfa, .axcfg, .axasm]) 0 ⟨rfl, rfl⟩ (by decide) (by decide +kernel) (by decide +kernel)
      (by decide +kernel)).2 32 rfl (by decide) (by decide +kernel)
    exact ⟨t, ht⟩
  · obtain ⟨t, _, ht, _⟩ := (h (slotted (some 6) [.qmfa]) 0 ⟨rfl, rfl⟩ (by decide) (by decide +kernel) (by decide +kernel)
      (by decide +kernel)).2 6 rfl (by decide) (by decide +kernel)
    exact ⟨t, ht⟩


/-! ### Witnesses: ASPX -/

theorem witness_BuildTablesFollowsRules (h : Obligations.BuildTablesFollowsRules) :
    prm.master (2, 1, 1) = some tabs.master ∧ groups tabs.noise = 4 :=
  ⟨(h prm (2, 1, 1) 2 2 tabs (by decide +kernel)).2.2.1, by decide⟩

/-- The configuration of AT1 in SIM[0], `extra` before it. -/
def configSim (extra : List (Nat × Word)) : List (Nat × Word) :=
  extra ++ [(0x900, 2), (0x901, 1), (0x902, 1), (0x903, 2), (0x904, 2)]

/-- AT14; AT15 on the tables of AT1; AT11. -/
theorem witness_AspxcfgRebuildsOnChange (h : Obligations.AspxcfgRebuildsOnChange) :
    (∃ t, exec (.aspxcfg 0) (staged (opened [] (configSim [])) 0 [.qmfa]) = .next t ∧ (t.wAt 0).sbx = 16) ∧
    (∃ s : State, s = (staged ((opened [] (configSim [])).setW 0
        { (ChannelState.reset prm).withTables tabs with cfgPrev := some (2, 1, 1) }) 0 [.qmfa]) ∧
      ∃ t, exec (.aspxcfg 0) s = .next t ∧ (t.wAt 0).masterResetPending = false) ∧
    exec (.aspxcfg 0) (staged (opened [] []) 0 [.qmfa]) = .next ((staged (opened [] []) 0 [.qmfa]).failedWith 5) := by
  refine ⟨?_, ⟨_, rfl, ?_⟩, ?_⟩
  · exact (((h (staged (opened [] (configSim [])) 0 [.qmfa]) 0 ⟨rfl, rfl⟩ (by decide) (by decide +kernel) (by decide +kernel)).2
      (.inl (by decide +kernel))).2 tabs (by decide +kernel)).imp fun _ ht => ⟨ht.1.1, by rw [show (0 : Fin 8) = slotOf 0 from rfl, ht.2]; rfl⟩
  · exact ((h (staged ((opened [] (configSim [])).setW 0
        { (ChannelState.reset prm).withTables tabs with cfgPrev := some (2, 1, 1) }) 0 [.qmfa]) 0 ⟨rfl, rfl⟩ (by decide)
        (by decide +kernel) (by decide +kernel)).1 (by decide +kernel) (by decide +kernel)).imp
      fun _ ht => ⟨ht.1.1, by rw [show (0 : Fin 8) = slotOf 0 from rfl, ht.2]⟩
  · exact ((h (staged (opened [] []) 0 [.qmfa]) 0 ⟨rfl, rfl⟩ (by decide) (by decide +kernel) (by decide +kernel)).2
      (.inl (by decide +kernel))).1 (.fatal .invalidAspxConfig) (by decide +kernel)

/-- The signal envelopes of `gridSim` (EV2) and its noise envelope. -/
def ev2 (l i : Nat) : Int := if l = 0 then 5 + i else 6 + (i / 2 : Nat)

/-- EV2; a value of 127; EV11; six envelopes; a grid that ends early. -/
theorem witness_AspxenvDecodesEnvelopes (h : Obligations.AspxenvDecodesEnvelopes) :
    (∃ t, exec (.aspxenv 0) (tabled gridSim [.axcfg]) = .next t) ∧
    (∃ s : State, s = tabled [(0x906, 1), (0x907, 1), (0x911, 8), (0x919, 8), (0xA00, 127)] [.axcfg] ∧
      exec (.aspxenv 0) s = .next (s.failedWith 3)) ∧
    (∃ s : State, s = tabled [(0x905, 2)] [.axcfg] ∧ exec (.aspxenv 0) s = .next (s.failedWith 5)) ∧
    (∃ s : State, s = tabled [(0x906, 6), (0x907, 1)] [.axcfg] ∧ exec (.aspxenv 0) s = .next (s.failedWith 5)) ∧
    ∃ s : State, s = tabled [(0x906, 1), (0x907, 1), (0x911, 7), (0x919, 8)] [.axcfg] ∧
      exec (.aspxenv 0) s = .next (s.failedWith 5) := by
  refine ⟨?_, ⟨_, rfl, ?_⟩, ⟨_, rfl, ?_⟩, ⟨_, rfl, ?_⟩, ⟨_, rfl, ?_⟩⟩
  · have h1 := (((h (tabled gridSim [.axcfg]) 0 2 1 2 ev2 (fun _ _ => 6) ⟨rfl, rfl⟩ (by decide) (by decide +kernel)
      (by decide +kernel)).2 (.inl ⟨by decide +kernel, rfl⟩)).2 (by decide +kernel) (by decide +kernel) (by decide)).2
      ⟨by decide +kernel, ⟨8, by decide +kernel⟩, by decide +kernel, by decide +kernel, by decide +kernel, by decide +kernel,
        by decide +kernel, by decide +kernel, by decide +kernel⟩
      (by decide +kernel) (by decide +kernel) (by decide +kernel)
      (by
        intro l hl i hi
        have : l = 0 ∨ l = 1 := by omega
        rcases this with rfl | rfl
        · rw [if_pos (by decide +kernel)]
          revert i
          decide +kernel
        · rw [if_neg (by decide +kernel)]
          refine ⟨i / 2, ?_⟩
          revert i
          decide +kernel)
      (by decide +kernel)
    exact (h1.2 ⟨by decide +kernel, by decide +kernel⟩).imp fun _ ht => ht.1
  · have h1 := (((h (tabled [(0x906, 1), (0x907, 1), (0x911, 8), (0x919, 8), (0xA00, 127)] [.axcfg]) 0 1 1 2 (fun _ _ => 127)
      (fun _ _ => 0) ⟨rfl, rfl⟩ (by decide) (by decide +kernel)
      (by decide +kernel)).2 (.inl ⟨by decide +kernel, rfl⟩)).2 (by decide +kernel) (by decide +kernel) (by decide)).2
      ⟨by decide +kernel, ⟨8, by decide +kernel⟩, by decide +kernel, by decide +kernel, by decide +kernel, by decide +kernel,
        by decide +kernel, by decide +kernel, by decide +kernel⟩
      (by decide +kernel) (by decide +kernel) (by decide +kernel)
      (by
        intro l hl i hi
        obtain rfl : l = 0 := by omega
        rw [if_pos (by decide +kernel)]
        revert i
        decide +kernel)
      (by decide +kernel)
    exact h1.1 (fun hr => absurd (hr.1 0 (by decide) 0 (by decide +kernel)).2 (by decide))
  · exact (h _ 0 0 0 0 (fun _ _ => 0) (fun _ _ => 0) ⟨rfl, rfl⟩ (by decide) (by decide +kernel) (by decide +kernel)).1
      (by decide +kernel) (by decide +kernel)
  · exact ((h _ 0 0 0 2 (fun _ _ => 0) (fun _ _ => 0) ⟨rfl, rfl⟩ (by decide) (by decide +kernel) (by decide +kernel)).2
      (.inl ⟨by decide +kernel, rfl⟩)).1 (.inr (.inl (by decide +kernel)))
  · exact (((h (tabled [(0x906, 1), (0x907, 1), (0x911, 7), (0x919, 8)] [.axcfg]) 0 1 1 2 (fun _ _ => 0) (fun _ _ => 0) ⟨rfl, rfl⟩
      (by decide) (by decide +kernel) (by decide +kernel)).2
      (.inl ⟨by decide +kernel, rfl⟩)).2 (by decide +kernel) (by decide +kernel) (by decide)).1
      (fun hg => by
        obtain ⟨ts, h8, h7, -⟩ := hg.2.1
        obtain rfl : ts = 8 := by
          have : (tabled [(0x906, 1), (0x907, 1), (0x911, 7), (0x919, 8)] [.axcfg]).frame.numTs = some 8 := rfl
          rw [this] at h8
          exact (Option.some.inj h8).symm
        exact absurd h7 (by decide +kernel))

/-- `tabled` with the low band of eight timeslots, all 0, as QMFA leaves it, and all of Qhigh, the envelopes and the
levels at 0. -/
def synthReady (sim : List (Nat × Word)) (xs : List Stage) : State :=
  let s := tabled sim xs
  s.setChan 0 { s.chanAt 0 with
    qlow := some (List.replicate 12 Slot.zero)
    qhigh := Vector.replicate 2048 (some Cplx.zero)
    qscf := Vector.replicate 240 (some 0)
    qnoise := Vector.replicate 10 (some 6)
    gainS := Vector.replicate 320 (some 0)
    lvlN := Vector.replicate 320 (some 0)
    lvlT := Vector.replicate 320 (some 0) }

/-- Inverse filtering in mode 0 over the patches of AT3; HF10. -/
theorem witness_AspxhfFillsHighBand (h : Obligations.AspxhfFillsHighBand) :
    (∃ t, exec (.aspxhf 0) (synthReady [] [.axenv]) = .next t) ∧
    exec (.aspxhf 0) (synthReady [(0x940, 4)] [.axenv]) = .next ((synthReady [(0x940, 4)] [.axenv]).failedWith 5) := by
  constructor
  · exact ((h (synthReady [] [.axenv]) 0 8 (List.replicate 12 Slot.zero) (fun _ => 0) ⟨rfl, rfl⟩ (by decide) (by decide +kernel)
      (by decide +kernel)).2 (by decide +kernel) (by decide +kernel) rfl (by decide) rfl (by decide +kernel) (by decide +kernel)
      (by decide +kernel) (by decide +kernel) (by decide +kernel) (by decide +kernel)).imp fun _ ht => ht.1
  · exact (h (synthReady [(0x940, 4)] [.axenv]) 0 8 [] (fun _ => 0) ⟨rfl, rfl⟩ (by decide) (by decide +kernel)
      (by decide +kernel)).1 ⟨0, by decide +kernel, .inr (by decide +kernel)⟩

/-- One envelope of eight timeslots in high resolution and one noise envelope. -/
def flatSim (extra : List (Nat × Word)) : List (Nat × Word) :=
  extra ++ [(0x906, 1), (0x907, 1), (0x911, 8), (0x919, 8), (0x920, 1)]

theorem at_replicate {α : Type} {n i : Nat} (v : α) (h : i < n) : Tab.at? (Vector.replicate n (some v)) i = some v := by
  simp [Tab.at?, h]

/-- The groups of a subband of the high band in the tables of AT1. -/
theorem tabs_groups : ∀ m < 64, 16 ≤ m →
    grp? tabs.hi m = some ((grp? tabs.hi m).getD 0) ∧ grp? tabs.noise m = some ((grp? tabs.noise m).getD 0) ∧
      (grp? tabs.hi m).getD 0 < 12 ∧ (grp? tabs.noise m).getD 0 < 4 := by decide +kernel

/-- Slots 0 and 1 as `synthReady` leaves slot 0, the envelopes of slot 1 done, slot 0 naming slot 1 as its partner, and
slot 1 holding the words `l`. -/
def pairReady (l : List (Nat × Word)) : State :=
  let s := synthReady (flatSim [(0x908, 1), (0x909, 1)] ++ l.map (fun e => (4096 + e.1, e.2))) [.axhf]
  staged ((s.setW 1 (s.wAt 0)).setChan 1 (s.chanAt 0)) 1 [.axenv]

/-- The words of slot 1 that make it slot 0's partner. -/
def partnerSim : List (Nat × Word) := flatSim [(0x908, 1)]

theorem pair_agrees : (pairReady partnerSim).agreesAsPair 0 1 := by
  refine ⟨by decide +kernel, by decide +kernel, ⟨?_, ?_, ?_, ?_, ?_⟩, rfl, rfl, rfl, by decide +kernel⟩
  · exact fun _ => by decide +kernel
  · exact fun _ => by decide +kernel
  · intro l hl _
    have h1 : l ≤ 1 := Int.ofNat_le.1 (hl.trans (by decide +kernel))
    obtain rfl | rfl : l = 0 ∨ l = 1 := by omega
    · decide +kernel
    · decide +kernel
  · intro l hl _
    have h1 : l < 1 := Int.ofNat_lt.1 (Int.lt_of_lt_of_le hl (by decide +kernel))
    obtain rfl : l = 0 := by omega
    decide +kernel
  · intro l hl _
    have h1 : l ≤ 1 := Int.ofNat_le.1 (hl.trans (by decide +kernel))
    obtain rfl | rfl : l = 0 ∨ l = 1 := by omega
    · decide +kernel
    · decide +kernel

/-- A channel alone; a balance pair; a bad mode, balance word and partner slot; a partner without envelopes, and one that
does not name slot 0; a bad sine flag. -/
theorem witness_AspxgainLimitsAndBoosts (h : Obligations.AspxgainLimitsAndBoosts) :
    (∃ t, exec (.aspxgain 0) (synthReady (flatSim []) [.axhf]) = .next t) ∧
    (∃ t, exec (.aspxgain 0) (pairReady partnerSim) = .next t) ∧
    (∃ s : State, s = synthReady (flatSim [(0x905, 2)]) [.axhf] ∧ exec (.aspxgain 0) s = .next (s.failedWith 5)) ∧
    (∃ s : State, s = synthReady (flatSim [(0x908, 2)]) [.axhf] ∧ exec (.aspxgain 0) s = .next (s.failedWith 5)) ∧
    (∃ s : State, s = synthReady (flatSim [(0x908, 1), (0x909, 8)]) [.axhf] ∧
      exec (.aspxgain 0) s = .next (s.failedWith 5)) ∧
    (∃ s : State, s = synthReady (flatSim [(0x908, 1), (0x909, 1)]) [.axhf] ∧
      exec (.aspxgain 0) s = .next (s.failedWith 6)) ∧
    (∃ s : State, s = pairReady (flatSim []) ∧ exec (.aspxgain 0) s = .next (s.failedWith 5)) ∧
    ∃ s : State, s = synthReady (flatSim [(0x95B, 2)]) [.axhf] ∧ exec (.aspxgain 0) s = .next (s.failedWith 5) := by
  have none_at (s : State) (pair : Option (Fin 8)) := h s 0 0 2 pair (fun _ _ => 0) (fun _ => 0) (fun _ => 0)
    (fun _ _ _ => 0) (fun _ _ _ => 0) (fun _ _ => Cplx.zero)
  refine ⟨?_, ?_, ⟨_, rfl, ?_⟩, ⟨_, rfl, ?_⟩, ⟨_, rfl, ?_⟩, ⟨_, rfl, ?_⟩, ⟨_, rfl, ?_⟩, ⟨_, rfl, ?_⟩⟩
  · have h1 := ((h (synthReady (flatSim []) [.axhf]) 0 1 2 none (fun _ m => (grp? tabs.hi m).getD 0)
      (fun m => (grp? tabs.noise m).getD 0) (fun _ => 0) (fun _ _ _ => 0) (fun _ _ _ => 6) (fun _ _ => Cplx.zero) ⟨rfl, rfl⟩
      (by decide) (by decide +kernel) (by decide +kernel)).2 (.inl ⟨by decide +kernel, rfl⟩)).2.2.2
      (.inl ⟨by decide +kernel, rfl⟩)
    refine (h1.2 (by decide +kernel) (by decide +kernel) (by decide) (by decide +kernel) ?_).imp fun _ ht => ht.1
    intro l hl
    obtain rfl : l = 0 := by omega
    refine ⟨by decide +kernel, .inr (by decide +kernel), by decide +kernel, by decide +kernel, by decide +kernel,
      fun k hk => absurd hk (Nat.not_lt_zero k), ?_⟩
    intro m h1 h2
    have h64 : m < 64 := h2
    obtain ⟨g1, g2, g3, g4⟩ := tabs_groups m h64 h1
    refine ⟨g1, g2, ?_, ?_⟩
    · intro d hd
      simp only [Option.toList_none, List.mem_cons, List.not_mem_nil, or_false] at hd
      subst hd
      exact ⟨at_replicate 0 (by omega), at_replicate 6 (by omega)⟩
    · intro ts _ h4
      have h8 : (ts : Int) < 8 := h4
      have hk : 64 * ts + m < 2048 := by clear h4 h2 h1; omega
      exact at_replicate Cplx.zero hk
  · have h1 := ((h (pairReady partnerSim) 0 1 2 (some 1) (fun _ m => (grp? tabs.hi m).getD 0)
      (fun m => (grp? tabs.noise m).getD 0) (fun _ => 0) (fun _ _ _ => 0) (fun _ _ _ => 6) (fun _ _ => Cplx.zero) ⟨rfl, rfl⟩
      (by decide) (by decide +kernel) (by decide +kernel)).2 (.inl ⟨by decide +kernel, rfl⟩)).2.2.2
      (.inr ⟨1, by decide +kernel, by decide +kernel, by decide, by decide +kernel, pair_agrees, rfl⟩)
    refine (h1.2 (by decide +kernel) (by decide +kernel) (by decide) (by decide +kernel) ?_).imp fun _ ht => ht.1
    intro l hl
    obtain rfl : l = 0 := by omega
    refine ⟨by decide +kernel, .inr (by decide +kernel), by decide +kernel, by decide +kernel, by decide +kernel,
      fun k hk => absurd hk (Nat.not_lt_zero k), ?_⟩
    intro m h1 h2
    have h64 : m < 64 := h2
    obtain ⟨g1, g2, g3, g4⟩ := tabs_groups m h64 h1
    refine ⟨g1, g2, ?_, ?_⟩
    · intro d hd
      simp only [Option.toList_some, List.mem_cons, List.not_mem_nil, or_false] at hd
      rcases hd with rfl | rfl
      · exact ⟨at_replicate 0 (by omega), at_replicate 6 (by omega)⟩
      · exact ⟨at_replicate 0 (by omega), at_replicate 6 (by omega)⟩
    · intro ts _ h4
      have h8 : (ts : Int) < 8 := h4
      have hk : 64 * ts + m < 2048 := by clear h4 h2 h1; omega
      exact at_replicate Cplx.zero hk
  · exact (none_at _ none ⟨rfl, rfl⟩ (by decide) (by decide +kernel) (by decide +kernel)).1 (by decide +kernel)
      (by decide +kernel)
  · exact ((none_at _ none ⟨rfl, rfl⟩ (by decide) (by decide +kernel) (by decide +kernel)).2
      (.inl ⟨by decide +kernel, rfl⟩)).1 (by decide +kernel) (by decide +kernel)
  · exact ((none_at _ none ⟨rfl, rfl⟩ (by decide) (by decide +kernel) (by decide +kernel)).2
      (.inl ⟨by decide +kernel, rfl⟩)).2.1 (by decide +kernel) (.inr (.inl (by decide +kernel)))
  · exact (((none_at _ none ⟨rfl, rfl⟩ (by decide) (by decide +kernel) (by decide +kernel)).2
      (.inl ⟨by decide +kernel, rfl⟩)).2.2.1 1 (by decide +kernel) (by decide +kernel) (by decide)).1 (by decide +kernel)
  · exact (((none_at (pairReady (flatSim [])) none ⟨rfl, rfl⟩ (by decide) (by decide +kernel) (by decide +kernel)).2
      (.inl ⟨by decide +kernel, rfl⟩)).2.2.1 1 (by decide +kernel) (by decide +kernel) (by decide)).2 (by decide +kernel)
      (fun hp => absurd hp.1 (by decide +kernel))
  · exact (((none_at (synthReady (flatSim [(0x95B, 2)]) [.axhf]) none ⟨rfl, rfl⟩ (by decide) (by decide +kernel)
      (by decide +kernel)).2 (.inl ⟨by decide +kernel, rfl⟩)).2.2.2 (.inl ⟨by decide +kernel, rfl⟩)).1
      ⟨11, by decide +kernel, by decide +kernel⟩

theorem witness_AspxasmAssembles (h : Obligations.AspxasmAssembles) :
    ∃ t, exec (.aspxasm 0) (synthReady (flatSim []) [.axgain]) = .next t := by
  refine (h (synthReady (flatSim []) [.axgain]) 0 8 (fun _ => 0) (fun _ _ => 0) (fun _ _ => 0) (fun _ _ => 0)
    (fun _ _ => Cplx.zero) ⟨rfl, rfl⟩ (by decide) (by decide +kernel) (by decide +kernel) rfl (by decide) (by decide +kernel)
    (by decide +kernel) ?_).imp fun _ ht => ht.1
  intro ts hts
  refine ⟨⟨by decide +kernel, by decide, ⟨?_, ?_⟩, fun l hl => absurd hl (Nat.not_lt_zero l)⟩, fun m h1 h2 => ?_⟩
  · exact Int.le_trans (show _ ≤ (0 : Int) by decide +kernel) (Int.natCast_nonneg ts)
  · exact Int.lt_of_lt_of_le (Int.ofNat_lt.2 hts) (show (8 : Int) ≤ _ by decide +kernel)
  · have h64 : m < 64 := h2
    exact ⟨at_replicate 0 (by omega), at_replicate 0 (by omega), at_replicate 0 (by omega), at_replicate Cplx.zero (by omega)⟩

end Sys2Proof.Tests
end

/-! The parameters never change (00_scope.md R16; 70_reset_and_hazards.md R423). What the pseudocode of each command
keeps of the host's side of the state, what each host access keeps of the parameters, and one case analysis of a step
that puts the two together. -/

namespace Sys2Proof.Proofs

open Sys2Proof Sys2Proof.Machine Sys2Proof.Laws

variable {s t u : State}

/-! ### The host's side through the shared operations -/

theorem hostSideKept_refl (s : State) : hostSideKept s s := ⟨rfl, rfl, rfl, rfl, rfl, rfl, rfl, rfl, rfl, rfl⟩

@[simp] theorem hostSideKept_setW {c : Fin 8} {x : ChannelState} :
    hostSideKept s (t.setW c x) ↔ hostSideKept s t := Iff.rfl
@[simp] theorem hostSideKept_setK {c : Fin 8} {x : ChannelState} :
    hostSideKept s (t.setK c x) ↔ hostSideKept s t := Iff.rfl
@[simp] theorem hostSideKept_setChan {c : Fin 8} {x : ChanFrame} :
    hostSideKept s (t.setChan c x) ↔ hostSideKept s t := Iff.rfl
@[simp] theorem hostSideKept_markDone {c : Fin 8} {x : Stage} :
    hostSideKept s (t.markDone c x) ↔ hostSideKept s t := Iff.rfl
@[simp] theorem hostSideKept_complete : hostSideKept s t.complete ↔ hostSideKept s t := Iff.rfl
@[simp] theorem hostSideKept_takeFatal {e : FatalError} : hostSideKept s (t.takeFatal e) ↔ hostSideKept s t := Iff.rfl
@[simp] theorem hostSideKept_takeWarning {x : Warning} :
    hostSideKept s (t.takeWarning x) ↔ hostSideKept s t := Iff.rfl
@[simp] theorem hostSideKept_setRead {v pos : Nat} : hostSideKept s (t.setRead v pos) ↔ hostSideKept s t := Iff.rfl
@[simp] theorem hostSideKept_endFrame : hostSideKept s t.endFrame ↔ hostSideKept s t := Iff.rfl
@[simp] theorem hostSideKept_commit : hostSideKept s t.commit ↔ hostSideKept s t := Iff.rfl
@[simp] theorem hostSideKept_openFrame {flb : Nat} {fcfg : Word} {indep : Bool} :
    hostSideKept s (t.openFrame flb fcfg indep) ↔ hostSideKept s t := Iff.rfl
@[simp] theorem hostSideKept_bitpos {v : Word} : hostSideKept s { t with bitpos := v } ↔ hostSideKept s t := Iff.rfl
@[simp] theorem hostSideKept_pcm {m : Memory Word} : hostSideKept s { t with pcm := m } ↔ hostSideKept s t := Iff.rfl
@[simp] theorem hostSideKept_qg {m : Memory Word} : hostSideKept s { t with qg := m } ↔ hostSideKept s t := Iff.rfl
@[simp] theorem hostSideKept_td {m : Memory Word} : hostSideKept s { t with td := m } ↔ hostSideKept s t := Iff.rfl

@[simp] theorem hostSideKept_seqCheck {n : Nat} : hostSideKept s (t.seqCheck n) ↔ hostSideKept s t := by
  unfold State.seqCheck
  dsimp only
  split
  · exact hostSideKept_takeWarning (x := .sequenceDiscontinuity)
  · exact Iff.rfl

/-! ### The pseudocode of each command -/

theorem chresetBody_keeps_hostSide {c : Fin 8} (h : chresetBody c s = .ok u) : hostSideKept s u := by
  obtain ⟨-, rfl⟩ | ⟨-, rfl⟩ := chresetBody_ok h <;> simp [hostSideKept_refl]

theorem fbeginBody_keeps_hostSide {f m : BitVec 4} {d : BitVec 2} {indep seqp : Bool}
    (h : fbeginBody f m d indep seqp s = .ok u) : hostSideKept s u := by
  obtain ⟨-, -, -, -, rfl⟩ := fbeginBody_ok.1 h
  split <;> simp [hostSideKept_refl]

theorem fcommitBody_keeps_hostSide (h : fcommitBody s = .ok u) : hostSideKept s u := by
  obtain ⟨-, ⟨-, rfl⟩ | ⟨-, -, rfl⟩⟩ := fcommitBody_ok.1 h <;> simp [hostSideKept_refl]

theorem fabortBody_keeps_hostSide (h : fabortBody s = .ok u) : hostSideKept s u := by
  obtain ⟨-, rfl⟩ := fabortBody_ok.1 h
  simp [hostSideKept_refl]

theorem setlayoutBody_keeps_hostSide {c : Fin 8} (h : setlayoutBody c s = .ok u) : hostSideKept s u := by
  obtain ⟨-, -, -, gs, -, rfl⟩ := setlayoutBody_ok.1 h
  simp [hostSideKept_refl]

theorem readCommand_keeps_hostSide {ok : Bool} {m : State → BitM Nat} (h : readCommand ok m s = .ok u) :
    hostSideKept s u := by
  obtain ⟨-, -, v, pos, -, rfl⟩ := readCommand_ok.1 h
  simp [hostSideKept_refl]

theorem sectBody_keeps_hostSide {c : Fin 8} {g : Fin 16} {n : Nat} (h : sectBody c g n s = .ok u) :
    hostSideKept s u := by
  obtain ⟨-, -, -, -, cbs, pos, -, rfl⟩ := sectBody_ok.1 h
  simp [hostSideKept_refl]

theorem specBody_keeps_hostSide {c : Fin 8} {g : Fin 16} (h : specBody c g s = .ok u) : hostSideKept s u := by
  obtain ⟨-, -, -, vals, pos, q, mags, -, rfl⟩ := specBody_ok h
  simp [hostSideKept_refl]

theorem sfBody_keeps_hostSide {c : Fin 8} {g : Fin 16} {snfp : Bool} (h : sfBody c g snfp s = .ok u) :
    hostSideKept s u := by
  obtain ⟨-, -, -, start, r, pos, -, -, rfl⟩ := sfBody_ok h
  simp [hostSideKept_refl]

theorem arithBody_keeps_hostSide {c : Fin 8} {g : Fin 16} (h : arithBody c g s = .ok u) : hostSideKept s u := by
  obtain ⟨-, -, -, -, f, -, -, rfl⟩ := arithBody_ok h
  simp [hostSideKept_refl]

theorem deqBody_keeps_hostSide {c : Fin 8} {g : Fin 16} (h : deqBody c g s = .ok u) : hostSideKept s u := by
  obtain ⟨-, -, -, coefs, -, rfl⟩ := deqBody_ok.1 h
  simp [hostSideKept_refl]

theorem stereoBody_keeps_hostSide {c c2 : Fin 8} (h : stereoBody c c2 s = .ok u) : hostSideKept s u := by
  obtain ⟨-, -, -, -, -, -, -, new, -, rfl⟩ := stereoBody_ok h
  simp [hostSideKept_refl]

theorem imdctBody_keeps_hostSide {c : Fin 8} (h : imdctBody c s = .ok u) : hostSideKept s u := by
  obtain ⟨-, -, -, -, x, td, -, rfl⟩ := imdctBody_ok.1 h
  simp [hostSideKept_refl]

theorem qmfaBody_keeps_hostSide {c : Fin 8} (h : qmfaBody c s = .ok u) : hostSideKept s u := by
  obtain ⟨-, -, -, numTs, input, -, -, rfl⟩ := qmfaBody_ok.1 h
  simp [hostSideKept_refl]

theorem qmfsBody_keeps_hostSide {c : Fin 8} (h : qmfsBody c s = .ok u) : hostSideKept s u := by
  obtain ⟨-, -, -, -, numTs, -, rfl⟩ := qmfsBody_ok.1 h
  simp [hostSideKept_refl]

theorem aspxcfgBody_keeps_hostSide {c : Fin 8} (h : aspxcfgBody c s = .ok u) : hostSideKept s u := by
  obtain ⟨-, -, -, x, -, rfl⟩ := aspxcfgBody_ok.1 h
  simp [hostSideKept_refl]

theorem aspxenvBody_keeps_hostSide {c : Fin 8} (h : aspxenvBody c s = .ok u) : hostSideKept s u := by
  obtain ⟨-, -, -, a, sig, noise, x, f, -, -, -, -, -, -, -, -, rfl⟩ := aspxenvBody_ok h
  simp [hostSideKept_refl]

theorem aspxhfBody_keeps_hostSide {c : Fin 8} (h : aspxhfBody c s = .ok u) : hostSideKept s u := by
  obtain ⟨-, -, -, modes, numTs, qlow, alphas, x, f, -, -, -, -, -, -, rfl⟩ := aspxhfBody_ok h
  simp [hostSideKept_refl]

theorem aspxgainBody_keeps_hostSide {c : Fin 8} (h : aspxgainBody c s = .ok u) : hostSideKept s u := by
  obtain ⟨-, -, -, a, pair, tones, levels, f, -, -, -, -, -, rfl⟩ := aspxgainBody_ok h
  simp [hostSideKept_refl]

theorem aspxasmBody_keeps_hostSide {c : Fin 8} (h : aspxasmBody c s = .ok u) : hostSideKept s u := by
  obtain ⟨-, -, -, numTs, x, qg, -, -, rfl⟩ := aspxasmBody_ok.1 h
  simp [hostSideKept_refl]

/-! ### Commands -/

theorem finish_keeps_hostSide {r : Except Stop State} (h : s.finish r = .next t)
    (hr : ∀ u, r = .ok u → hostSideKept s u) : hostSideKept s t := by
  obtain ⟨u, hu, rfl⟩ | ⟨e, -, rfl⟩ := finish_next.1 h
  · exact hostSideKept_complete.2 (hr u hu)
  · exact hostSideKept_takeFatal.2 (hostSideKept_refl s)

theorem command_keeps_hostSide {slots : List (BitVec 4)} {body : State → Except Stop State}
    (h : s.command slots body = .next t) (hb : ∀ u, body s = .ok u → hostSideKept s u) : hostSideKept s t := by
  obtain ⟨-, rfl⟩ | ⟨-, -, rfl⟩ | ⟨-, -, h⟩ := command_next.1 h
  · exact hostSideKept_takeFatal.2 (hostSideKept_refl s)
  · exact hostSideKept_complete.2 (hostSideKept_refl s)
  · exact finish_keeps_hostSide h hb

theorem bitReader_keeps_hostSide {ok : Bool} {m : State → BitM Nat}
    (h : s.command [] (readCommand ok m) = .next t) : hostSideKept s t :=
  command_keeps_hostSide h fun _ => readCommand_keeps_hostSide

/-- No command writes a parameter, a register of the host, or a memory space that is the host's to write. -/
theorem exec_keeps_hostSide {i : Instr} (h : exec i s = .next t) : hostSideKept s t := by
  cases i with
  | nop => exact finish_keeps_hostSide (r := .ok s) h fun _ hu => Except.ok.inj hu ▸ hostSideKept_refl s
  | chreset c => exact command_keeps_hostSide h fun _ => chresetBody_keeps_hostSide
  | fbegin f m d indep seqp => exact finish_keeps_hostSide h fun _ => fbeginBody_keeps_hostSide
  | fcommit => exact finish_keeps_hostSide h fun _ => fcommitBody_keeps_hostSide
  | fabort => exact finish_keeps_hostSide h fun _ => fabortBody_keeps_hostSide
  | setlayout c => exact command_keeps_hostSide h fun _ => setlayoutBody_keeps_hostSide
  | rdbits | rdunary | rdvlc | rdesc => exact bitReader_keeps_hostSide h
  | sect c g lenBits => exact command_keeps_hostSide h fun _ => sectBody_keeps_hostSide
  | spec c g => exact command_keeps_hostSide h fun _ => specBody_keeps_hostSide
  | sf c g snfp => exact command_keeps_hostSide h fun _ => sfBody_keeps_hostSide
  | arith c g => exact command_keeps_hostSide h fun _ => arithBody_keeps_hostSide
  | deq c g => exact command_keeps_hostSide h fun _ => deqBody_keeps_hostSide
  | stereo c c2 => exact command_keeps_hostSide h fun _ => stereoBody_keeps_hostSide
  | imdct c => exact command_keeps_hostSide h fun _ => imdctBody_keeps_hostSide
  | qmfa c => exact command_keeps_hostSide h fun _ => qmfaBody_keeps_hostSide
  | qmfs c => exact command_keeps_hostSide h fun _ => qmfsBody_keeps_hostSide
  | aspxcfg c => exact command_keeps_hostSide h fun _ => aspxcfgBody_keeps_hostSide
  | aspxenv c => exact command_keeps_hostSide h fun _ => aspxenvBody_keeps_hostSide
  | aspxhf c => exact command_keeps_hostSide h fun _ => aspxhfBody_keeps_hostSide
  | aspxgain c => exact command_keeps_hostSide h fun _ => aspxgainBody_keeps_hostSide
  | aspxasm c => exact command_keeps_hostSide h fun _ => aspxasmBody_keeps_hostSide

/-- The command in CMD is run, or it is undecodable and raises IllegalCommand (30_encoding.md R134). -/
theorem runCommand_next :
    s.runCommand = .next t ↔
      (∃ i, decode s.cmd = .ok i ∧ exec i s = .next t) ∨
      (∃ e, decode s.cmd = .error e ∧ t = s.takeFatal .illegalCommand) := by
  unfold State.runCommand
  cases decode s.cmd <;> simp [eq_comm]

theorem runCommand_keeps_hostSide (h : s.runCommand = .next t) : hostSideKept s t := by
  obtain ⟨i, -, hi⟩ | ⟨e, -, rfl⟩ := runCommand_next.1 h
  · exact exec_keeps_hostSide hi
  · exact hostSideKept_takeFatal.2 (hostSideKept_refl s)

/-! ### The parameters through the host's accesses -/

@[simp] theorem blockReset_cfg : s.blockReset.cfg = s.cfg := rfl
@[simp] theorem issue_cfg {v : Word} : (s.issue v).cfg = s.cfg := rfl
@[simp] theorem hostError_cfg : s.hostError.cfg = s.cfg := rfl
@[simp] theorem advanceHaddr_cfg : s.advanceHaddr.cfg = s.cfg := rfl

@[simp] theorem memWrite_cfg {space i : Nat} {v : Word} : (s.memWrite space i v).cfg = s.cfg := by
  unfold State.memWrite
  split <;> rfl

@[simp] theorem readHdata_cfg : s.readHdata.cfg = s.cfg := by
  unfold State.readHdata
  split <;> simp

@[simp] theorem writeHdata_cfg {v : Word} : (s.writeHdata v).cfg = s.cfg := by
  unfold State.writeHdata
  split <;> simp

@[simp] theorem readRegister_cfg {offset : Nat} : (s.readRegister offset).cfg = s.cfg := by
  unfold State.readRegister
  split <;> simp

@[simp] theorem writeCtrl_cfg {v : Word} : (s.writeCtrl v).cfg = s.cfg := by
  unfold State.writeCtrl
  split <;> simp

@[simp] theorem writeRegister_cfg {offset : Nat} {v : Word} : (s.writeRegister offset v).cfg = s.cfg := by
  unfold State.writeRegister
  split <;> simp

/-- What an abandoned command may have written is memory, no parameter (70_reset_and_hazards.md R421). -/
@[simp] theorem forgetWritten_cfg {i : Instr} : (s.forgetWritten i).cfg = s.cfg := by
  cases i with
  | fbegin | fcommit | fabort => simp only [State.forgetWritten]; split <;> simp
  | imdct | qmfa | aspxasm | qmfs => simp only [State.forgetWritten]; split <;> rfl
  | _ => rfl

@[simp] theorem abandon_cfg : s.abandon.cfg = s.cfg := by
  unfold State.abandon
  split <;> simp

/-! ### One step -/

/-- A host access while BUSY = 0 (20_memory.md R105). -/
theorem access_next {a : HostAccess} :
    s.access a = .next t ↔
      a.whole = true ∧
        ((∃ v, a.write = some v ∧ t = s.writeRegister a.offset v) ∨
          (a.write = none ∧ t = s.readRegister a.offset)) := by
  unfold State.access
  cases a.whole <;> cases a.write <;> simp [eq_comm]

/-- A host access while BUSY = 1 (70_reset_and_hazards.md R421, R431). -/
theorem busyAccess_next {a : HostAccess} (h : s.busyAccess a = .next t) :
    t = s.readRegister 0x08 ∨ t = s.abandon ∨ ∃ v, t = s.writeCtrl v := by
  unfold State.busyAccess at h
  split at h
  · split at h
    · cases h; exact .inl rfl
    · split at h
      · cases h; exact .inr (.inl rfl)
      · cases h; exact .inr (.inr ⟨_, rfl⟩)
    · cases h
  · cases h

/-- Everything a step can be: idle, the command in CMD, or the host's next access while BUSY = 0 or 1
(70_reset_and_hazards.md R422, R430). -/
theorem step_next (h : step s = .next t) :
    (s.hostQ = [] ∧ s.status.busy = false ∧ t = s) ∨
    (s.status.busy = true ∧ s.runCommand = .next t) ∨
    ∃ a q, s.hostQ = a :: q ∧
      ((s.status.busy = false ∧ { s with hostQ := q }.access a = .next t) ∨
        (s.status.busy = true ∧ a.whileBusy = true ∧ { s with hostQ := q }.busyAccess a = .next t)) := by
  unfold step State.advance at h
  cases hq : s.hostQ with
  | nil => cases hb : s.status.busy <;> simp_all
  | cons a q =>
    refine .inr ?_
    cases hb : s.status.busy with
    | false => exact .inr ⟨a, q, rfl, .inl ⟨rfl, by simpa [hq, hb] using h⟩⟩
    | true =>
      cases hw : a.whileBusy with
      | false => exact .inl ⟨rfl, by simpa [hq, hb, hw] using h⟩
      | true => exact .inr ⟨a, q, rfl, .inr ⟨rfl, hw, by simpa [hq, hb, hw] using h⟩⟩

theorem access_keeps_cfg {a : HostAccess} (h : s.access a = .next t) : t.cfg = s.cfg := by
  obtain ⟨-, ⟨v, -, rfl⟩ | ⟨-, rfl⟩⟩ := access_next.1 h
  · exact writeRegister_cfg
  · exact readRegister_cfg

theorem busyAccess_keeps_cfg {a : HostAccess} (h : s.busyAccess a = .next t) : t.cfg = s.cfg := by
  obtain rfl | rfl | ⟨v, rfl⟩ := busyAccess_next h
  · exact readRegister_cfg
  · exact abandon_cfg
  · exact writeCtrl_cfg

theorem step_keeps_cfg (h : step s = .next t) : t.cfg = s.cfg := by
  obtain ⟨-, -, rfl⟩ | ⟨-, hrun⟩ | ⟨a, q, -, ⟨-, hacc⟩ | ⟨-, -, hacc⟩⟩ := step_next h
  · rfl
  · exact (runCommand_keeps_hostSide hrun).1
  · exact access_keeps_cfg (s := { s with hostQ := q }) hacc
  · exact busyAccess_keeps_cfg (s := { s with hostQ := q }) hacc

/-- Settles O24: by the one case analysis of a step, from what commands and host accesses keep. -/
theorem parametersNeverChange : Obligations.ParametersNeverChange := fun _ _ => step_keeps_cfg

end Sys2Proof.Proofs

/-! The host's accesses of the memory spaces that are out of range (20_memory.md R104), and the canonical form of the
five spaces under every step (20_memory.md R100): what each shared operation makes of the form, then the commands that
write a space, then the host's accesses and the block reset. -/

namespace Sys2Proof.Proofs

open Sys2Proof Sys2Proof.Machine Sys2Proof.Laws

variable {s t u : State}

/-! ### HADDR and HDATA -/

/-- The sizes of the five spaces (10_state.md R60). -/
theorem spaceSize_eq_getD (space : Nat) :
    spaceSize space = [16384, 32768, 16384, 32768, 16384].getD space 0 := by
  match space with
  | 0 | 1 | 2 | 3 | 4 | _ + 5 => rfl

theorem spaceSize_reserved {space : Nat} (h : 5 ≤ space) : spaceSize space = 0 := by
  obtain ⟨n, rfl⟩ := Nat.exists_eq_add_of_le' h
  rfl

/-- HADDR advances within bits 27:0 (10_state.md R51). -/
theorem nextHaddr_eq_ofNat (a : Word) :
    nextHaddr a =
      BitVec.ofNat 32 ((a.extractLsb' 28 4).toNat * 2 ^ 28 + ((a.extractLsb' 0 28).toNat + 1) % 2 ^ 28) := by
  have hlow : (a.extractLsb' 0 28 + 1).toNat = ((a.extractLsb' 0 28).toNat + 1) % 2 ^ 28 := BitVec.toNat_add _ _
  have hlt := (a.extractLsb' 0 28 + 1).isLt
  have hspace := (a.extractLsb' 28 4).isLt
  apply BitVec.eq_of_toNat_eq
  rw [nextHaddr, BitVec.toNat_append, ← Nat.shiftLeft_add_eq_or_of_lt hlt, Nat.shiftLeft_eq, hlow, BitVec.toNat_ofNat]
  omega

theorem advanceHaddr_eq :
    s.advanceHaddr = { s with haddr := BitVec.ofNat 32 (s.hspace * 2 ^ 28 + (s.hindex + 1) % 2 ^ 28) } := by
  rw [State.advanceHaddr, nextHaddr_eq_ofNat]
  rfl

/-- A read past the end of a space, or of a reserved one (20_memory.md R104). -/
theorem readHdata_of_size_le (h : spaceSize s.hspace ≤ s.hindex) :
    s.readHdata = { s with rdata := 0 }.hostError.advanceHaddr := by
  rw [State.readHdata, if_neg (Nat.not_lt.2 h)]

/-- A write past the end of a space, or to a space that is not the host's to write (20_memory.md R104). -/
theorem writeHdata_of_size_le {v : Word} (h : spaceSize s.hspace ≤ s.hindex ∨ spaceWritable s.hspace = false) :
    s.writeHdata v = s.hostError.advanceHaddr := by
  rw [State.writeHdata, if_neg]
  rintro ⟨hlt, hw⟩
  rcases h with h | h
  · omega
  · simp [h] at hw

/-- While BUSY = 0 the next step is the host's next access (20_memory.md R110). -/
theorem step_of_idle {a : HostAccess} {q : List HostAccess} (hb : s.status.busy = false) (hq : s.hostQ = a :: q) :
    step s = { s with hostQ := q }.access a := by
  simp [step, State.advance, hq, hb]

theorem step_readHdata {b : Bool} {q : List HostAccess} (hb : s.status.busy = false)
    (hq : s.hostQ = ⟨0x30, 4, none, b⟩ :: q) : step s = .next { s with hostQ := q }.readHdata := by
  rw [step_of_idle hb hq]
  simp [State.access, HostAccess.whole, State.readRegister]

theorem step_writeHdata {v : Word} {b : Bool} {q : List HostAccess} (hb : s.status.busy = false)
    (hq : s.hostQ = ⟨0x30, 4, some v, b⟩ :: q) : step s = .next ({ s with hostQ := q }.writeHdata v) := by
  rw [step_of_idle hb hq]
  simp [State.access, HostAccess.whole, State.writeRegister]

/-- Settles O31: the access is the read or the write of HDATA that fails its range check. -/
theorem outOfRangeHostAccess : Obligations.OutOfRangeHostAccess := by
  intro s space index w b q hb hat hq hout
  obtain ⟨rfl, rfl⟩ := Prod.mk.inj hat
  have hsize : 5 ≤ s.hspace ∨ spaceSize s.hspace ≤ s.hindex → spaceSize s.hspace ≤ s.hindex := by
    rintro (h | h)
    · exact (spaceSize_reserved h).trans_le (Nat.zero_le _)
    · exact h
  rw [← spaceSize_eq_getD] at hout
  cases w with
  | none =>
    have hle : spaceSize s.hspace ≤ s.hindex := by
      rcases hout with h | h | ⟨h, -⟩
      · exact hsize (.inl h)
      · exact hsize (.inr h)
      · cases h
    rw [step_readHdata hb hq, readHdata_of_size_le (s := { s with hostQ := q }) hle, advanceHaddr_eq]
    rfl
  | some v =>
    have hno : spaceSize s.hspace ≤ s.hindex ∨ spaceWritable s.hspace = false := by
      rcases hout with h | h | ⟨-, h | h⟩
      · exact .inl (hsize (.inl h))
      · exact .inl (hsize (.inr h))
      · exact .inr (congrArg spaceWritable h)
      · exact .inr (congrArg spaceWritable h)
    rw [step_writeHdata hb hq, writeHdata_of_size_le (s := { s with hostQ := q }) hno, advanceHaddr_eq]
    rfl

/-! ### The canonical form through the shared operations -/

theorem canonical_iff :
    s.canonical = true ↔
      s.bsm.wf = true ∧ s.sim.wf = true ∧ s.pcm.wf = true ∧ s.qg.wf = true ∧ s.td.wf = true := by
  simp [State.canonical, and_assoc]

@[simp] theorem canonical_setW {c : Fin 8} {x : ChannelState} : (s.setW c x).canonical = s.canonical := rfl
@[simp] theorem canonical_setK {c : Fin 8} {x : ChannelState} : (s.setK c x).canonical = s.canonical := rfl
@[simp] theorem canonical_setChan {c : Fin 8} {x : ChanFrame} : (s.setChan c x).canonical = s.canonical := rfl
@[simp] theorem canonical_markDone {c : Fin 8} {x : Stage} : (s.markDone c x).canonical = s.canonical := rfl
@[simp] theorem canonical_complete : s.complete.canonical = s.canonical := rfl
@[simp] theorem canonical_takeFatal {e : FatalError} : (s.takeFatal e).canonical = s.canonical := rfl
@[simp] theorem canonical_takeWarning {x : Warning} : (s.takeWarning x).canonical = s.canonical := rfl
@[simp] theorem canonical_setRead {v pos : Nat} : (s.setRead v pos).canonical = s.canonical := rfl
@[simp] theorem canonical_bitpos {v : Word} : { s with bitpos := v }.canonical = s.canonical := rfl
@[simp] theorem canonical_commit : s.commit.canonical = s.canonical := rfl
@[simp] theorem canonical_blockReset : s.blockReset.canonical = s.canonical := rfl
@[simp] theorem canonical_issue {v : Word} : (s.issue v).canonical = s.canonical := rfl
@[simp] theorem canonical_hostError : s.hostError.canonical = s.canonical := rfl
@[simp] theorem canonical_advanceHaddr : s.advanceHaddr.canonical = s.canonical := rfl

@[simp] theorem canonical_seqCheck {n : Nat} : (s.seqCheck n).canonical = s.canonical := by
  unfold State.seqCheck
  dsimp only
  split <;> rfl

theorem canonical_bsm (hs : s.canonical = true) {m : Memory Byte} (hm : m.wf = true) :
    { s with bsm := m }.canonical = true := by
  obtain ⟨-, hsim, hpcm, hqg, htd⟩ := canonical_iff.1 hs
  exact canonical_iff.2 ⟨hm, hsim, hpcm, hqg, htd⟩

theorem canonical_sim (hs : s.canonical = true) {m : Memory Word} (hm : m.wf = true) :
    { s with sim := m }.canonical = true := by
  obtain ⟨hbsm, -, hpcm, hqg, htd⟩ := canonical_iff.1 hs
  exact canonical_iff.2 ⟨hbsm, hm, hpcm, hqg, htd⟩

theorem canonical_pcm (hs : s.canonical = true) {m : Memory Word} (hm : m.wf = true) :
    { s with pcm := m }.canonical = true := by
  obtain ⟨hbsm, hsim, -, hqg, htd⟩ := canonical_iff.1 hs
  exact canonical_iff.2 ⟨hbsm, hsim, hm, hqg, htd⟩

theorem canonical_qg (hs : s.canonical = true) {m : Memory Word} (hm : m.wf = true) :
    { s with qg := m }.canonical = true := by
  obtain ⟨hbsm, hsim, hpcm, -, htd⟩ := canonical_iff.1 hs
  exact canonical_iff.2 ⟨hbsm, hsim, hpcm, hm, htd⟩

theorem canonical_td (hs : s.canonical = true) {m : Memory Word} (hm : m.wf = true) :
    { s with td := m }.canonical = true := by
  obtain ⟨hbsm, hsim, hpcm, hqg, -⟩ := canonical_iff.1 hs
  exact canonical_iff.2 ⟨hbsm, hsim, hpcm, hqg, hm⟩

theorem wf_bsm (hs : s.canonical = true) : s.bsm.wf = true := (canonical_iff.1 hs).1

theorem wf_sim (hs : s.canonical = true) : s.sim.wf = true := by
  obtain ⟨-, hsim, -, -, -⟩ := canonical_iff.1 hs
  exact hsim

theorem wf_pcm (hs : s.canonical = true) : s.pcm.wf = true := by
  obtain ⟨-, -, hpcm, -, -⟩ := canonical_iff.1 hs
  exact hpcm

theorem wf_qg (hs : s.canonical = true) : s.qg.wf = true := by
  obtain ⟨-, -, -, hqg, -⟩ := canonical_iff.1 hs
  exact hqg

theorem wf_td (hs : s.canonical = true) : s.td.wf = true := by
  obtain ⟨-, -, -, -, htd⟩ := canonical_iff.1 hs
  exact htd

/-- A loss of contents leaves nothing listed (10_state.md R84). -/
theorem canonical_loseGrids (hs : s.canonical = true) : s.loseGrids.canonical = true :=
  canonical_td (s := { s with qg := ⟨.free s.draw, []⟩ }) (canonical_qg hs (wf_empty _)) (wf_empty _)

theorem canonical_endFrame (hs : s.canonical = true) : s.endFrame.canonical = true :=
  canonical_loseGrids (s := s) hs

theorem canonical_openFrame (hs : s.canonical = true) {flb : Nat} {fcfg : Word} {indep : Bool} :
    (s.openFrame flb fcfg indep).canonical = true :=
  canonical_td (s := { s with qg := ⟨.value 0, []⟩ }) (canonical_qg hs (wf_empty _)) (wf_empty _)

/-! ### Commands that write a memory space -/

theorem fbeginBody_keeps_canonical {f m : BitVec 4} {d : BitVec 2} {indep seqp : Bool} (hs : s.canonical = true)
    (h : fbeginBody f m d indep seqp s = .ok u) : u.canonical = true := by
  obtain ⟨-, -, -, -, rfl⟩ := fbeginBody_ok.1 h
  split <;> simp [canonical_openFrame hs]

theorem fcommitBody_keeps_canonical (hs : s.canonical = true) (h : fcommitBody s = .ok u) : u.canonical = true := by
  obtain ⟨-, ⟨-, rfl⟩ | ⟨-, -, rfl⟩⟩ := fcommitBody_ok.1 h
  · exact canonical_endFrame hs
  · exact canonical_endFrame (s := s.commit) hs

theorem fabortBody_keeps_canonical (hs : s.canonical = true) (h : fabortBody s = .ok u) : u.canonical = true := by
  obtain ⟨-, rfl⟩ := fabortBody_ok.1 h
  exact canonical_endFrame hs

theorem imdctBody_keeps_canonical {c : Fin 8} (hs : s.canonical = true) (h : imdctBody c s = .ok u) :
    u.canonical = true := by
  obtain ⟨-, -, -, -, x, td, hw, rfl⟩ := imdctBody_ok.1 h
  obtain ⟨htd, -⟩ := imdctWindows_ok hw
  simp [canonical_td hs (htd (wf_td hs))]

theorem qmfaBody_keeps_canonical {c : Fin 8} (hs : s.canonical = true) (h : qmfaBody c s = .ok u) :
    u.canonical = true := by
  obtain ⟨-, -, -, numTs, input, -, -, rfl⟩ := qmfaBody_ok.1 h
  simp [canonical_qg hs (wf_writeRows (wf_qg hs) _ _ _)]

theorem qmfsBody_keeps_canonical {c : Fin 8} (hs : s.canonical = true) (h : qmfsBody c s = .ok u) :
    u.canonical = true := by
  obtain ⟨-, -, -, -, numTs, -, rfl⟩ := qmfsBody_ok.1 h
  simp [canonical_pcm hs (wf_setRun (wf_pcm hs) _ _)]

theorem aspxasmBody_keeps_canonical {c : Fin 8} (hs : s.canonical = true) (h : aspxasmBody c s = .ok u) :
    u.canonical = true := by
  obtain ⟨-, -, -, numTs, x, qg, -, ha, rfl⟩ := aspxasmBody_ok.1 h
  obtain ⟨hqg, -⟩ := assembleSlots_ok ha
  simp [canonical_qg hs (hqg (wf_qg hs))]

/-! ### Commands that write no memory space -/

theorem chresetBody_canonical {c : Fin 8} (h : chresetBody c s = .ok u) : u.canonical = s.canonical := by
  obtain ⟨-, rfl⟩ | ⟨-, rfl⟩ := chresetBody_ok h <;> simp

theorem setlayoutBody_canonical {c : Fin 8} (h : setlayoutBody c s = .ok u) : u.canonical = s.canonical := by
  obtain ⟨-, -, -, gs, -, rfl⟩ := setlayoutBody_ok.1 h
  simp

theorem readCommand_canonical {ok : Bool} {m : State → BitM Nat} (h : readCommand ok m s = .ok u) :
    u.canonical = s.canonical := by
  obtain ⟨-, -, v, pos, -, rfl⟩ := readCommand_ok.1 h
  simp

theorem sectBody_canonical {c : Fin 8} {g : Fin 16} {n : Nat} (h : sectBody c g n s = .ok u) :
    u.canonical = s.canonical := by
  obtain ⟨-, -, -, -, cbs, pos, -, rfl⟩ := sectBody_ok.1 h
  simp

theorem specBody_canonical {c : Fin 8} {g : Fin 16} (h : specBody c g s = .ok u) : u.canonical = s.canonical := by
  obtain ⟨-, -, -, vals, pos, q, mags, -, rfl⟩ := specBody_ok h
  simp

theorem sfBody_canonical {c : Fin 8} {g : Fin 16} {snfp : Bool} (h : sfBody c g snfp s = .ok u) :
    u.canonical = s.canonical := by
  obtain ⟨-, -, -, start, r, pos, -, -, rfl⟩ := sfBody_ok h
  simp

theorem arithBody_canonical {c : Fin 8} {g : Fin 16} (h : arithBody c g s = .ok u) : u.canonical = s.canonical := by
  obtain ⟨-, -, -, -, f, -, -, rfl⟩ := arithBody_ok h
  simp

theorem deqBody_canonical {c : Fin 8} {g : Fin 16} (h : deqBody c g s = .ok u) : u.canonical = s.canonical := by
  obtain ⟨-, -, -, coefs, -, rfl⟩ := deqBody_ok.1 h
  simp

theorem stereoBody_canonical {c c2 : Fin 8} (h : stereoBody c c2 s = .ok u) : u.canonical = s.canonical := by
  obtain ⟨-, -, -, -, -, -, -, new, -, rfl⟩ := stereoBody_ok h
  simp

theorem aspxcfgBody_canonical {c : Fin 8} (h : aspxcfgBody c s = .ok u) : u.canonical = s.canonical := by
  obtain ⟨-, -, -, x, -, rfl⟩ := aspxcfgBody_ok.1 h
  simp

theorem aspxenvBody_canonical {c : Fin 8} (h : aspxenvBody c s = .ok u) : u.canonical = s.canonical := by
  obtain ⟨-, -, -, a, sig, noise, x, f, -, -, -, -, -, -, -, -, rfl⟩ := aspxenvBody_ok h
  simp

theorem aspxhfBody_canonical {c : Fin 8} (h : aspxhfBody c s = .ok u) : u.canonical = s.canonical := by
  obtain ⟨-, -, -, modes, numTs, qlow, alphas, x, f, -, -, -, -, -, -, rfl⟩ := aspxhfBody_ok h
  simp

theorem aspxgainBody_canonical {c : Fin 8} (h : aspxgainBody c s = .ok u) : u.canonical = s.canonical := by
  obtain ⟨-, -, -, a, pair, tones, levels, f, -, -, -, -, -, rfl⟩ := aspxgainBody_ok h
  simp

/-! ### The end of a command -/

theorem finish_keeps_canonical {r : Except Stop State} (hs : s.canonical = true) (h : s.finish r = .next t)
    (hr : ∀ u, r = .ok u → u.canonical = true) : t.canonical = true := by
  obtain ⟨u, hu, rfl⟩ | ⟨e, -, rfl⟩ := finish_next.1 h
  · simpa using hr u hu
  · simpa using hs

theorem command_keeps_canonical {slots : List (BitVec 4)} {body : State → Except Stop State} (hs : s.canonical = true)
    (h : s.command slots body = .next t) (hb : ∀ u, body s = .ok u → u.canonical = true) : t.canonical = true := by
  obtain ⟨-, rfl⟩ | ⟨-, -, rfl⟩ | ⟨-, -, h⟩ := command_next.1 h
  · simpa using hs
  · simpa using hs
  · exact finish_keeps_canonical hs h hb

/-- A command whose pseudocode writes no memory space. -/
theorem command_canonical {slots : List (BitVec 4)} {body : State → Except Stop State} (hs : s.canonical = true)
    (h : s.command slots body = .next t) (hb : ∀ u, body s = .ok u → u.canonical = s.canonical) :
    t.canonical = true :=
  command_keeps_canonical hs h fun u hu => (hb u hu).trans hs

theorem bitReader_canonical {ok : Bool} {m : State → BitM Nat} (hs : s.canonical = true)
    (h : s.command [] (readCommand ok m) = .next t) : t.canonical = true :=
  command_canonical hs h fun _ => readCommand_canonical

theorem exec_keeps_canonical {i : Instr} (hs : s.canonical = true) (h : exec i s = .next t) : t.canonical = true := by
  cases i with
  | nop => exact finish_keeps_canonical (r := .ok s) hs h fun _ hu => Except.ok.inj hu ▸ hs
  | fbegin f m d indep seqp => exact finish_keeps_canonical hs h fun _ => fbeginBody_keeps_canonical hs
  | fcommit => exact finish_keeps_canonical hs h fun _ => fcommitBody_keeps_canonical hs
  | fabort => exact finish_keeps_canonical hs h fun _ => fabortBody_keeps_canonical hs
  | imdct c => exact command_keeps_canonical hs h fun _ => imdctBody_keeps_canonical hs
  | qmfa c => exact command_keeps_canonical hs h fun _ => qmfaBody_keeps_canonical hs
  | qmfs c => exact command_keeps_canonical hs h fun _ => qmfsBody_keeps_canonical hs
  | aspxasm c => exact command_keeps_canonical hs h fun _ => aspxasmBody_keeps_canonical hs
  | chreset c => exact command_canonical hs h fun _ => chresetBody_canonical
  | setlayout c => exact command_canonical hs h fun _ => setlayoutBody_canonical
  | rdbits | rdunary | rdvlc | rdesc => exact bitReader_canonical hs h
  | sect c g lenBits => exact command_canonical hs h fun _ => sectBody_canonical
  | spec c g => exact command_canonical hs h fun _ => specBody_canonical
  | sf c g snfp => exact command_canonical hs h fun _ => sfBody_canonical
  | arith c g => exact command_canonical hs h fun _ => arithBody_canonical
  | deq c g => exact command_canonical hs h fun _ => deqBody_canonical
  | stereo c c2 => exact command_canonical hs h fun _ => stereoBody_canonical
  | aspxcfg c => exact command_canonical hs h fun _ => aspxcfgBody_canonical
  | aspxenv c => exact command_canonical hs h fun _ => aspxenvBody_canonical
  | aspxhf c => exact command_canonical hs h fun _ => aspxhfBody_canonical
  | aspxgain c => exact command_canonical hs h fun _ => aspxgainBody_canonical

theorem runCommand_keeps_canonical (hs : s.canonical = true) (h : s.runCommand = .next t) : t.canonical = true := by
  obtain ⟨i, -, hi⟩ | ⟨e, -, rfl⟩ := runCommand_next.1 h
  · exact exec_keeps_canonical hs hi
  · simpa using hs

/-! ### The canonical form through the host's accesses -/

theorem memWrite_keeps_canonical (hs : s.canonical = true) {space i : Nat} {v : Word} :
    (s.memWrite space i v).canonical = true := by
  unfold State.memWrite
  split
  · exact canonical_bsm hs (wf_set (wf_bsm hs) _ _)
  · exact canonical_sim hs (wf_set (wf_sim hs) _ _)
  · exact canonical_qg hs (wf_set (wf_qg hs) _ _)
  · exact hs

theorem writeHdata_keeps_canonical (hs : s.canonical = true) {v : Word} : (s.writeHdata v).canonical = true := by
  unfold State.writeHdata
  split
  · simpa using memWrite_keeps_canonical hs
  · simpa using hs

@[simp] theorem readRegister_canonical {offset : Nat} : (s.readRegister offset).canonical = s.canonical := by
  unfold State.readRegister State.readHdata
  split_ifs <;> rfl

@[simp] theorem writeCtrl_canonical {v : Word} : (s.writeCtrl v).canonical = s.canonical := by
  unfold State.writeCtrl
  split <;> rfl

theorem writeRegister_keeps_canonical (hs : s.canonical = true) {offset : Nat} {v : Word} :
    (s.writeRegister offset v).canonical = true := by
  unfold State.writeRegister
  split
  case h_1 => exact writeCtrl_canonical.trans hs
  case h_7 => exact writeHdata_keeps_canonical hs
  all_goals exact hs

theorem wf_forget {m : Memory Word} (hm : m.wf = true) (space epoch : Nat) (idx : List Nat) :
    (forget m space epoch idx).wf = true := wf_setAll hm _

/-- An abandoned command's elements get their unspecified contents by writes (70_reset_and_hazards.md R421). -/
theorem forgetWritten_keeps_canonical (hs : s.canonical = true) {i : Instr} : (s.forgetWritten i).canonical = true := by
  cases i with
  | fbegin | fcommit | fabort =>
    simp only [State.forgetWritten]
    split
    · exact canonical_loseGrids hs
    · exact hs
  | imdct =>
    simp only [State.forgetWritten]
    split
    · exact canonical_td hs (wf_forget (wf_td hs) _ _ _)
    · exact hs
  | qmfa | aspxasm =>
    simp only [State.forgetWritten]
    split
    · exact canonical_qg hs (wf_forget (wf_qg hs) _ _ _)
    · exact hs
  | qmfs =>
    simp only [State.forgetWritten]
    split
    · exact canonical_pcm hs (wf_forget (wf_pcm hs) _ _ _)
    · exact hs
  | _ => exact hs

theorem abandon_keeps_canonical (hs : s.canonical = true) : s.abandon.canonical = true := by
  unfold State.abandon
  split
  · simpa using forgetWritten_keeps_canonical hs
  · simpa using hs

theorem access_keeps_canonical {a : HostAccess} (hs : s.canonical = true) (h : s.access a = .next t) :
    t.canonical = true := by
  obtain ⟨-, ⟨v, -, rfl⟩ | ⟨-, rfl⟩⟩ := access_next.1 h
  · exact writeRegister_keeps_canonical hs
  · exact readRegister_canonical.trans hs

theorem busyAccess_keeps_canonical {a : HostAccess} (hs : s.canonical = true) (h : s.busyAccess a = .next t) :
    t.canonical = true := by
  obtain rfl | rfl | ⟨v, rfl⟩ := busyAccess_next h
  · exact readRegister_canonical.trans hs
  · exact abandon_keeps_canonical hs
  · exact writeCtrl_canonical.trans hs

theorem step_keeps_canonical (hs : s.canonical = true) (h : step s = .next t) : t.canonical = true := by
  obtain ⟨-, -, rfl⟩ | ⟨-, hrun⟩ | ⟨a, q, -, ⟨-, hacc⟩ | ⟨-, -, hacc⟩⟩ := step_next h
  · exact hs
  · exact runCommand_keeps_canonical hs hrun
  · exact access_keeps_canonical (s := { s with hostQ := q }) hs hacc
  · exact busyAccess_keeps_canonical (s := { s with hostQ := q }) hs hacc

/-- Settles O18: by the one case analysis of a step, every operation on a space being a write or a loss of contents. -/
theorem canonicalMemoryKept : Obligations.CanonicalMemoryKept := fun _ _ => step_keeps_canonical

end Sys2Proof.Proofs

/-! Decoding and encoding (30_encoding.md R130 to R137). `readFrom w i` is the command of `i`'s row with its operands
read from `w`: what the decoder answers for a word that matches the row, and the command whose word `w` then is. The
round trip, the rows of the table and the decode order (R134) follow from it. -/

namespace Sys2Proof.Proofs

open Sys2Proof Sys2Proof.Machine Sys2Proof.Laws

variable {s : State} {w : Word} {i : Instr}

/-! ### Fields of a word -/

theorem opField_and (v w : Word) : opField (v &&& w) = opField v &&& opField w := BitVec.extractLsb'_and

theorem ofBool_getLsbD (w : Word) (k : Nat) : BitVec.ofBool (w.getLsbD k) = w.extractLsb' k 1 := by
  refine BitVec.eq_of_getLsbD_eq fun j hj => ?_
  simp [show j = 0 by omega]

/-- A word is its four fields (30_encoding.md R131). -/
theorem word_fields (w : Word) : word (opField w) (chField w) (subField w) (immField 16 w) = w := by
  have hch : opField w ++ chField w = w.extractLsb' 20 12 :=
    BitVec.extractLsb'_append_extractLsb'_eq_extractLsb' rfl
  have hsub : w.extractLsb' 20 12 ++ subField w = w.extractLsb' 16 16 :=
    BitVec.extractLsb'_append_extractLsb'_eq_extractLsb' rfl
  have himm : w.extractLsb' 16 16 ++ immField 16 w = w.extractLsb' 0 32 :=
    BitVec.extractLsb'_append_extractLsb'_eq_extractLsb' rfl
  rw [word, hch, hsub, himm, BitVec.extractLsb'_eq_self]

theorem word_eq_of_fields {op : BitVec 8} {ch sub : BitVec 4} {imm : BitVec 16} (hop : op = opField w)
    (hch : ch = chField w) (hsub : sub = subField w) (himm : imm = immField 16 w) : word op ch sub imm = w := by
  rw [hop, hch, hsub, himm, word_fields]

/-- A word is its OP and the 24 bits below. -/
theorem eq_iff_opField_low {v w : Word} : v = w ↔ opField v = opField w ∧ v.extractLsb' 0 24 = w.extractLsb' 0 24 := by
  have join (u : Word) : opField u ++ u.extractLsb' 0 24 = u :=
    (BitVec.extractLsb'_append_extractLsb'_eq_extractLsb' rfl).trans BitVec.extractLsb'_eq_self
  refine ⟨fun h => h ▸ ⟨rfl, rfl⟩, fun ⟨hop, hlow⟩ => ?_⟩
  rw [← join v, hop, hlow, join]

/-- An operand in the low bits of IMM is all of IMM where the bits above it are 0. -/
theorem imm_eq_low {m n : Nat} (h : 0#m = w.extractLsb' n m) : 0#m ++ immField n w = immField (m + n) w := by
  rw [h]
  exact BitVec.extractLsb'_append_extractLsb'_eq_extractLsb' (by omega)

/-! ### Rows -/

/-- The command of `i`'s row whose operands are the fields of `w` that the row's pattern names (30_encoding.md R133,
R136). -/
def readFrom (w : Word) : Instr → Instr
  | .nop => .nop
  | .chreset _ => .chreset (chField w)
  | .fbegin _ _ _ _ _ =>
      .fbegin (w.extractLsb' 0 4) (w.extractLsb' 4 4) (w.extractLsb' 8 2) (w.getLsbD 10) (w.getLsbD 11)
  | .fcommit => .fcommit
  | .fabort => .fabort
  | .setlayout _ => .setlayout (chField w)
  | .rdbits _ => .rdbits (immField 6 w)
  | .rdunary _ _ => .rdunary (w.getLsbD 16) (immField 16 w)
  | .rdvlc _ => .rdvlc (immField 8 w)
  | .rdesc _ => .rdesc (immField 5 w)
  | .sect _ _ _ => .sect (chField w) (subField w) (immField 4 w)
  | .spec _ _ => .spec (chField w) (subField w)
  | .sf _ _ _ => .sf (chField w) (subField w) (w.getLsbD 0)
  | .arith _ _ => .arith (chField w) (subField w)
  | .deq _ _ => .deq (chField w) (subField w)
  | .stereo _ _ => .stereo (chField w) (subField w)
  | .imdct _ => .imdct (chField w)
  | .qmfa _ => .qmfa (chField w)
  | .qmfs _ => .qmfs (chField w)
  | .aspxcfg _ => .aspxcfg (chField w)
  | .aspxenv _ => .aspxenv (chField w)
  | .aspxhf _ => .aspxhf (chField w)
  | .aspxgain _ => .aspxgain (chField w)
  | .aspxasm _ => .aspxasm (chField w)

/-- A row's must-be-zero bits: its mask below OP. -/
def mustBeZero (i : Instr) : Word := (rowOf i).2 &&& 0x00FFFFFF

@[simp] theorem rowOf_readFrom : rowOf (readFrom w i) = rowOf i := by cases i <;> rfl

theorem rowOf_mem_tableRows (i : Instr) : rowOf i ∈ tableRows := by
  cases i <;> simp only [rowOf] <;> decide

theorem exists_rowOf {r : Word × Word} (hr : r ∈ tableRows) : ∃ i, rowOf i = r := by
  obtain ⟨i, -, hi⟩ := List.mem_map.1 hr
  exact ⟨i, hi⟩

/-- The mask of a row holds all of OP, and its match nothing below OP. -/
theorem rowOf_shape (i : Instr) : opField (rowOf i).2 = 0xFF#8 ∧ (rowOf i).1.extractLsb' 0 24 = 0 := by
  cases i <;> simp only [rowOf] <;> decide

/-- (word AND mask) = match is what the decoder checks in two steps: OP is the row's, and the must-be-zero bits are 0
(30_encoding.md R134 steps 1 and 2, R136). -/
theorem matches_iff :
    w &&& (rowOf i).2 = (rowOf i).1 ↔ opField w = opField (rowOf i).1 ∧ w &&& mustBeZero i = 0 := by
  obtain ⟨hmask, hmatch⟩ := rowOf_shape i
  have hop : opField w &&& 0xFF#8 = opField w := BitVec.and_allOnes
  have hlow : (rowOf i).2.extractLsb' 0 24 &&& (0x00FFFFFF : Word).extractLsb' 0 24 = (rowOf i).2.extractLsb' 0 24 :=
    BitVec.and_allOnes
  have hzero : opField 0x00FFFFFF = 0#8 ∧ opField 0 = 0#8 ∧ (0 : Word).extractLsb' 0 24 = 0 := by decide
  obtain ⟨hmbz, hop0, hlow0⟩ := hzero
  rw [eq_iff_opField_low, eq_iff_opField_low (w := 0), mustBeZero]
  simp only [opField_and, BitVec.extractLsb'_and, hmask, hmatch, hop, hlow, hmbz, hop0, hlow0, BitVec.and_zero,
    true_and]

/-- A field in which the mask has all its bits reads as in the match. -/
theorem field_of_match {mask m : Word} {a n : Nat} {v : BitVec n} (h : w &&& mask = m)
    (hv : mask.extractLsb' a n = BitVec.allOnes n ∧ m.extractLsb' a n = v := by decide) : v = w.extractLsb' a n := by
  obtain ⟨hmask, rfl⟩ := hv
  rw [← h, BitVec.extractLsb'_and, hmask, BitVec.and_allOnes]

/-- A word that matches a row is the word of the command of that row it names, field by field. -/
theorem encode_readFrom (h : w &&& (rowOf i).2 = (rowOf i).1) : encode (readFrom w i) = w := by
  cases i <;> simp only [rowOf] at h
  case nop | fcommit | fabort => exact h.symm.trans BitVec.and_allOnes
  case chreset | setlayout | imdct | qmfa | qmfs | aspxcfg | aspxenv | aspxhf | aspxgain | aspxasm =>
    exact word_eq_of_fields (field_of_match h) rfl (field_of_match h) (field_of_match h)
  case spec | arith | deq | stereo =>
    exact word_eq_of_fields (field_of_match h) rfl rfl (field_of_match h)
  case rdbits | rdvlc | rdesc =>
    exact word_eq_of_fields (field_of_match h) (field_of_match h) (field_of_match h) (imm_eq_low (field_of_match h))
  case sect =>
    exact word_eq_of_fields (field_of_match h) rfl rfl (imm_eq_low (field_of_match h))
  case sf =>
    refine word_eq_of_fields (field_of_match h) rfl rfl ?_
    rw [ofBool_getLsbD]
    exact imm_eq_low (field_of_match h)
  case rdunary =>
    have hzero : 0#3 = w.extractLsb' 17 3 := field_of_match h
    refine word_eq_of_fields (field_of_match h) (field_of_match h) ?_ rfl
    rw [hzero, ofBool_getLsbD]
    exact BitVec.extractLsb'_append_extractLsb'_eq_extractLsb' rfl
  case fbegin =>
    have hzero : 0#4 = w.extractLsb' 12 4 := field_of_match h
    refine word_eq_of_fields (field_of_match h) (field_of_match h) (field_of_match h) ?_
    simp only [hzero, ofBool_getLsbD, BitVec.extractLsb'_append_extractLsb'_eq_extractLsb']
    rfl

/-- An operand in the low bits of IMM is read back from the word. -/
theorem extract_operand {op : BitVec 8} {ch sub : BitVec 4} {m n : Nat} {hi : BitVec m} {lo : BitVec n}
    (h : m + n = 16 := by rfl) : (word op ch sub ((hi ++ lo).cast h)).extractLsb' 0 n = lo := by
  rw [extract_word_imm _ _ _ _ 0 n (by omega), BitVec.extractLsb'_cast]
  exact BitVec.extractLsb'_append_eq_right

/-- The operands of a command are the fields of its word. -/
theorem readFrom_encode (i : Instr) : readFrom (encode i) i = i := by
  cases i with
  | nop | fcommit | fabort => rfl
  | chreset | setlayout | imdct | qmfa | qmfs | aspxcfg | aspxenv | aspxhf | aspxgain | aspxasm =>
    simp [readFrom, encode]
  | spec | arith | deq | stereo => simp [readFrom, encode]
  | rdbits n => exact congrArg Instr.rdbits (extract_operand (hi := 0#10) (lo := n))
  | rdvlc t => exact congrArg Instr.rdvlc (extract_operand (hi := 0#8) (lo := t))
  | rdesc b => exact congrArg Instr.rdesc (extract_operand (hi := 0#11) (lo := b))
  | sect c g n =>
    have hn : immField 4 (encode (.sect c g n)) = n := extract_operand (hi := 0#12) (lo := n)
    simp only [readFrom, hn]
    simp [encode]
  | sf =>
    simp only [readFrom, encode, word_getLsbD, BitVec.getLsbD_append]
    simp
  | rdunary =>
    simp only [readFrom, encode, word_getLsbD, BitVec.getLsbD_append]
    simp [immField, extract_word_imm]
  | fbegin f m d indep seqp =>
    have hf : (encode (.fbegin f m d indep seqp)).extractLsb' 0 4 = f :=
      extract_operand (hi := 0#4 ++ BitVec.ofBool seqp ++ BitVec.ofBool indep ++ d ++ m)
    have hm : (encode (.fbegin f m d indep seqp)).extractLsb' 4 4 = m :=
      (extract_word_imm _ _ _ _ 4 4 (by decide)).trans <|
        (BitVec.extractLsb'_append_eq_of_le (xlo := f) (by decide)).trans BitVec.extractLsb'_append_eq_right
    have hd : (encode (.fbegin f m d indep seqp)).extractLsb' 8 2 = d :=
      (extract_word_imm _ _ _ _ 8 2 (by decide)).trans <|
        (BitVec.extractLsb'_append_eq_of_le (xlo := f) (by decide)).trans <|
          (BitVec.extractLsb'_append_eq_of_le (xlo := m) (by decide)).trans BitVec.extractLsb'_append_eq_right
    simp only [readFrom, hf, hm, hd]
    simp only [encode, word_getLsbD, BitVec.getLsbD_append]
    simp

/-- The word of a command matches the row the command stands in (30_encoding.md R136). -/
theorem encode_matches (i : Instr) : encode i &&& (rowOf i).2 = (rowOf i).1 := by
  cases i with
  | nop => exact EncodesRow.nop
  | chreset c => exact EncodesRow.chreset c
  | fbegin f m d indep seqp => exact EncodesRow.fbegin f m d indep seqp
  | fcommit => exact EncodesRow.fcommit
  | fabort => exact EncodesRow.fabort
  | setlayout c => exact EncodesRow.setlayout c
  | rdbits n => exact EncodesRow.rdbits n
  | rdunary stop n => exact EncodesRow.rdunary stop n
  | rdvlc t => exact EncodesRow.rdvlc t
  | rdesc b => exact EncodesRow.rdesc b
  | sect c g n => exact EncodesRow.sect c g n
  | spec c g => exact EncodesRow.spec c g
  | sf c g snfp => exact EncodesRow.sf c g snfp
  | arith c g => exact EncodesRow.arith c g
  | deq c g => exact EncodesRow.deq c g
  | stereo c c2 => exact EncodesRow.stereo c c2
  | imdct c => exact EncodesRow.imdct c
  | qmfa c => exact EncodesRow.qmfa c
  | qmfs c => exact EncodesRow.qmfs c
  | aspxcfg c => exact EncodesRow.aspxcfg c
  | aspxenv c => exact EncodesRow.aspxenv c
  | aspxhf c => exact EncodesRow.aspxhf c
  | aspxgain c => exact EncodesRow.aspxgain c
  | aspxasm c => exact EncodesRow.aspxasm c

/-! ### The decoder -/

/-- A word with the OP of a row is that row's to accept or refuse (30_encoding.md R134 step 2). -/
theorem decode_of_opField (h : opField w = opField (rowOf i).1) :
    decode w = decodeRow (mustBeZero i) w (readFrom w i) := by
  cases i <;> (simp only [rowOf, mustBeZero, readFrom] at h ⊢; unfold decode; rw [h]; rfl)

theorem decode_of_match (h : w &&& (rowOf i).2 = (rowOf i).1) : decode w = .ok (readFrom w i) := by
  obtain ⟨hop, hmbz⟩ := matches_iff.1 h
  rw [decode_of_opField hop, decodeRow, if_pos hmbz]

theorem decode_of_not_match (hop : opField w = opField (rowOf i).1) (h : w &&& (rowOf i).2 ≠ (rowOf i).1) :
    decode w = .error .field := by
  have hmbz : w &&& mustBeZero i ≠ 0 := fun hmbz => h (matches_iff.2 ⟨hop, hmbz⟩)
  rw [decode_of_opField hop, decodeRow, if_neg hmbz]

/-- A word whose OP is in no row is an unknown opcode (30_encoding.md R134 step 1). -/
theorem decode_of_no_opField (h : ∀ r ∈ tableRows, opField w ≠ opField r.1) : decode w = .error .opcode := by
  have hop : (opField w).toNat ∉ tableRows.map fun r => (opField r.1).toNat := by
    rw [List.mem_map]
    rintro ⟨r, hr, heq⟩
    exact h r hr (BitVec.eq_of_toNat_eq heq.symm)
  unfold decode
  split
  case h_25 => rfl
  all_goals
    rename_i heq
    rw [heq] at hop
    exact absurd (by decide) hop

theorem decode_encode (i : Instr) : decode (encode i) = .ok i := by
  rw [decode_of_match (encode_matches i), readFrom_encode]

/-- The three answers of the decoder (30_encoding.md R134 steps 1 and 2). -/
theorem decode_cases (w : Word) :
    (∃ i, w &&& (rowOf i).2 = (rowOf i).1 ∧ decode w = .ok (readFrom w i)) ∨
    ((∃ r ∈ tableRows, opField w = opField r.1) ∧ decode w = .error .field) ∨
    ((∀ r ∈ tableRows, opField w ≠ opField r.1) ∧ decode w = .error .opcode) := by
  by_cases hop : ∃ r ∈ tableRows, opField w = opField r.1
  · obtain ⟨r, hr, hr'⟩ := hop
    obtain ⟨i, rfl⟩ := exists_rowOf hr
    by_cases h : w &&& (rowOf i).2 = (rowOf i).1
    · exact .inl ⟨i, h, decode_of_match h⟩
    · exact .inr (.inl ⟨⟨_, hr, hr'⟩, decode_of_not_match hr' h⟩)
  · push Not at hop
    exact .inr (.inr ⟨hop, decode_of_no_opField hop⟩)

/-- A word that decodes is the word of its command: it matches that command's row, where its fields are the operands. -/
theorem encode_of_decode (h : decode w = .ok i) : encode i = w := by
  obtain ⟨j, hj, hd⟩ | ⟨-, hd⟩ | ⟨-, hd⟩ := decode_cases w
  · obtain rfl : readFrom w j = i := Except.ok.inj (hd.symm.trans h)
    exact encode_readFrom hj
  · cases hd.symm.trans h
  · cases hd.symm.trans h

/-- Settles O1: a word that decodes matches a row, and a command's word matches the command's row. -/
theorem decodeAndEncodeAgree : Obligations.DecodeAndEncodeAgree := fun _ i =>
  ⟨fun h => (encode_of_decode h).symm, fun h => h ▸ decode_encode i⟩

theorem decode_matches (h : decode w = .ok i) : w &&& (rowOf i).2 = (rowOf i).1 :=
  encode_of_decode h ▸ encode_matches i

theorem exists_decode_of_match {r : Word × Word} (hr : r ∈ tableRows) (h : w &&& r.2 = r.1) :
    ∃ i, decode w = .ok i ∧ rowOf i = r := by
  obtain ⟨i, rfl⟩ := exists_rowOf hr
  exact ⟨readFrom w i, decode_of_match h, rowOf_readFrom⟩

theorem row_unique {r r' : Word × Word} (hr : r ∈ tableRows) (hr' : r' ∈ tableRows) (h : w &&& r.2 = r.1)
    (h' : w &&& r'.2 = r'.1) : r = r' := by
  obtain ⟨i, hi, rfl⟩ := exists_decode_of_match hr h
  obtain ⟨j, hj, rfl⟩ := exists_decode_of_match hr' h'
  rw [Except.ok.inj (hi.symm.trans hj)]

theorem decode_opcode_iff : decode w = .error .opcode ↔ ∀ r ∈ tableRows, opField w ≠ opField r.1 := by
  refine ⟨fun h r hr hop => ?_, decode_of_no_opField⟩
  obtain ⟨i, rfl⟩ := exists_rowOf hr
  rw [decode_of_opField hop, decodeRow] at h
  split at h <;> cases h

theorem decode_field_iff :
    decode w = .error .field ↔
      (∃ r ∈ tableRows, opField w = opField r.1) ∧ ∀ r ∈ tableRows, w &&& r.2 ≠ r.1 := by
  constructor
  · intro h
    refine ⟨?_, fun r hr hmatch => ?_⟩
    · obtain ⟨i, -, hd⟩ | ⟨hop, -⟩ | ⟨-, hd⟩ := decode_cases w
      · cases hd.symm.trans h
      · exact hop
      · cases hd.symm.trans h
    · obtain ⟨i, hd, -⟩ := exists_decode_of_match hr hmatch
      cases hd.symm.trans h
  · rintro ⟨⟨r, hr, hop⟩, h⟩
    obtain ⟨i, rfl⟩ := exists_rowOf hr
    exact decode_of_not_match hop (h _ hr)

/-- Settles O2: from the round trip and the three answers of the decoder. -/
theorem rowsMatchWords : Obligations.RowsMatchWords := fun _ =>
  ⟨fun _ => decode_matches, fun _ => exists_decode_of_match, fun _ hr _ hr' => row_unique hr hr', decode_opcode_iff,
    decode_field_iff⟩

/-- Settles O3: each word is evaluated. -/
theorem wordsDecodeAsWritten : Obligations.WordsDecodeAsWritten := by
  unfold Obligations.WordsDecodeAsWritten
  decide

/-! ### The decode order -/

/-- With a command about to run, the step is the command in CMD (10_state.md R45). -/
theorem step_of_aboutToRun (hs : s.aboutToRun) : step s = s.runCommand := by
  obtain ⟨hbusy, hwait⟩ := hs
  unfold step State.advance
  cases hq : s.hostQ with
  | nil => simp [hbusy]
  | cons a q => simp [hbusy, hwait a (by simp [hq])]

theorem step_of_decode_ok (hs : s.aboutToRun) (hd : decode s.cmd = .ok i) : step s = exec i s := by
  rw [step_of_aboutToRun hs, State.runCommand, hd]

theorem takeFatal_illegalCommand : s.takeFatal .illegalCommand = s.failedWith 6 := rfl

theorem step_of_decode_error {e : Reject} (hs : s.aboutToRun) (hd : decode s.cmd = .error e) :
    step s = .next (s.failedWith 6) := by
  rw [step_of_aboutToRun hs, State.runCommand, hd, takeFatal_illegalCommand]

theorem slotOk_eq_false {c : BitVec 4} (hc : 8 ≤ c.toNat) : slotOk c = false := by
  simpa [slotOk] using hc

theorem command_of_bad_slot {slots : List (BitVec 4)} {body : State → Except Stop State}
    (h : ∃ c ∈ slots, 8 ≤ c.toNat) : s.command slots body = .next (s.failedWith 6) := by
  have hslots : slots.all slotOk = false := by
    obtain ⟨c, hmem, hc⟩ := h
    exact List.all_eq_false.2 ⟨c, hmem, by simp [slotOk_eq_false hc]⟩
  exact command_next.2 (.inl ⟨hslots, rfl⟩)

/-- Step 3 of the decode order (30_encoding.md R134), which only a command with a slot field can fail. -/
theorem exec_of_bad_slot (h : ∃ c ∈ i.slots, 8 ≤ c.toNat) : exec i s = .next (s.failedWith 6) := by
  cases i with
  | nop | fbegin | fcommit | fabort | rdbits | rdunary | rdvlc | rdesc => simp [Instr.slots] at h
  | _ => exact command_of_bad_slot h

/-- Settles O5: the first two cases are the decoder's refusals, the third is the first check of every command with a
slot field. -/
theorem decodeOrder : Obligations.DecodeOrder := by
  refine fun s hs => ⟨fun hop => ?_, fun hmatch => ?_, fun i hd hslot => ?_, fun i hd _ => step_of_decode_ok hs hd⟩
  · exact step_of_decode_error hs (decode_of_no_opField hop)
  · cases hd : decode s.cmd with
    | error e => exact step_of_decode_error hs hd
    | ok i => exact absurd (decode_matches hd) (hmatch _ (rowOf_mem_tableRows i))
  · rw [step_of_decode_ok hs hd, exec_of_bad_slot hslot]

/-- The opcodes of 30_encoding.md R137. -/
def reservedOpcode (op : Nat) : Prop :=
  (0x06 ≤ op ∧ op ≤ 0x0F) ∨ (0x14 ≤ op ∧ op ≤ 0x1F) ∨ (0x25 ≤ op ∧ op ≤ 0x2F) ∨ (0x31 ≤ op ∧ op ≤ 0x3F) ∨
    (0x41 ≤ op ∧ op ≤ 0x4F) ∨ (0x52 ≤ op ∧ op ≤ 0x5F) ∨ (0x65 ≤ op ∧ op ≤ 0xFF)

theorem tableRows_not_reserved : ∀ r ∈ tableRows, ¬reservedOpcode (opField r.1).toNat := by
  intro r hr
  obtain ⟨i, rfl⟩ := exists_rowOf hr
  cases i <;> simp only [rowOf, reservedOpcode] <;> decide

/-- Settles O6: a reserved opcode is in no row, which is the first case of the decode order. -/
theorem reservedOpcodesRaise : Obligations.ReservedOpcodesRaise := by
  intro s hs (hop : reservedOpcode (opField s.cmd).toNat)
  refine (decodeOrder s hs).1 fun r hr heq => tableRows_not_reserved r hr ?_
  rwa [← heq]

end Sys2Proof.Proofs

/-! Control commands (40_control.md R160 to R167). For each command, when its pseudocode answers a state (the laws of the
bodies say which) and that it stops for one reason alone; then what that state is. -/

namespace Sys2Proof.Proofs

open Sys2Proof Sys2Proof.Machine Sys2Proof.Laws Sys2Proof.Config

variable {s t u : State}

/-! ### Pseudocode that stops for one reason alone -/

/-- Every stop of `r` raises `e`. -/
def StopsOnlyWith {α : Type} (e : FatalError) (r : Except Stop α) : Prop := ∀ x, r = .error x → x = .fatal e

theorem stopsOnlyWith_pure {α : Type} (e : FatalError) (a : α) : StopsOnlyWith e (pure a) := nofun

theorem stopsOnlyWith_require (e : FatalError) (b : Bool) : StopsOnlyWith e (require b e) := by
  intro x hx
  cases b <;> cases hx
  rfl

theorem stopsOnlyWith_bind {α β : Type} {e : FatalError} {r : Except Stop α} {f : α → Except Stop β}
    (hr : StopsOnlyWith e r) (hf : ∀ a, r = .ok a → StopsOnlyWith e (f a)) : StopsOnlyWith e (r >>= f) := by
  cases r with
  | error y => intro x hx; cases hx; exact hr y rfl
  | ok a => exact hf a rfl

/-- Pseudocode that can only stop with `e` raises `e` where it answers no state. -/
theorem finish_of_stopsOnlyWith {e : FatalError} {r : Except Stop State} (hr : StopsOnlyWith e r)
    (hno : ∀ u, r ≠ .ok u) : s.finish r = .next (s.takeFatal e) := by
  cases r with
  | error x => rw [hr x rfl]; rfl
  | ok u => exact absurd rfl (hno u)

/-! ### Slots -/

theorem slotOk_eq_true {c : BitVec 4} (hc : c.toNat < 8) : slotOk c = true := by
  simpa [slotOk] using hc

/-- A slot field below NUM_CH names the slot of its number. -/
theorem eq_slotOf_iff {c : BitVec 4} (hc : c.toNat < 8) (d : Fin 8) : d = slotOf c ↔ d.val = c.toNat := by
  have hval : (slotOf c).val = c.toNat := Nat.mod_eq_of_lt hc
  rw [Fin.ext_iff, hval]

/-- With a legal slot outside a failed frame, a command is its own pseudocode. -/
theorem command_eq_finish {c : BitVec 4} {body : State → Except Stop State} (hc : c.toNat < 8)
    (hf : s.failedFrame = false) : s.command [c] body = s.finish (body s) := by
  simp [State.command, slotOk_eq_true hc, hf]

theorem failedFrame_of_running (h : s.running) : s.failedFrame = false := by
  obtain ⟨-, hfail⟩ := h
  simp [State.failedFrame, hfail]

/-! ### NOP -/

/-- Settles O34: NOP is the end of a command and nothing before it. -/
theorem nopOnlySetsDone : Obligations.NopOnlySetsDone := fun _ => rfl

/-! ### CHRESET -/

theorem reset_atReset (p : Params) : (ChannelState.reset p).atReset p.histTs := by
  simp [ChannelState.atReset, ChannelState.reset, Vector.get_eq_getElem, Slot.zero, Cplx.zero]

/-- CHRESET with a legal slot outside a failed frame (40_control.md R161). -/
theorem exec_chreset {c : BitVec 4} (hc : c.toNat < 8) (hf : s.failedFrame = false) :
    exec (.chreset c) s = s.finish (chresetBody (slotOf c) s) := command_eq_finish hc hf

theorem chresetBody_of_open {c : Fin 8} (h : s.status.fopen = true) :
    chresetBody c s = .ok (s.setW c (ChannelState.reset s.cfg)) := if_pos h

theorem chresetBody_of_closed {c : Fin 8} (h : s.status.fopen = false) :
    chresetBody c s = .ok ((s.setK c (ChannelState.reset s.cfg)).setW c (ChannelState.reset s.cfg)) :=
  if_neg (by simp [h])

/-- W after W[c] was reset. -/
theorem wAt_setW_reset {p : Params} (c d : Fin 8) :
    if d = c then ((s.setW c (ChannelState.reset p)).wAt d).atReset p.histTs
    else (s.setW c (ChannelState.reset p)).wAt d = s.wAt d := by
  split
  · next h => subst h; simpa using reset_atReset p
  · next h => exact wAt_setW_other s c d _ h

/-- K after K[c] was reset. -/
theorem kAt_setK_reset {p : Params} (c d : Fin 8) :
    if d = c then ((s.setK c (ChannelState.reset p)).kAt d).atReset p.histTs
    else (s.setK c (ChannelState.reset p)).kAt d = s.kAt d := by
  split
  · next h => subst h; simpa using reset_atReset p
  · next h => exact kAt_setK_other s c d _ h

/-- Settles O35: the slot check and the discard come before the pseudocode, which is an update of W[c] in an open frame
and of K[c] too outside one. -/
theorem chresetResetsOneSlot : Obligations.ChresetResetsOneSlot := by
  refine fun s c => ⟨fun hc => exec_of_bad_slot ⟨c, by simp [Instr.slots], hc⟩, fun hc => ⟨fun ho hf => ?_, fun hno => ?_⟩⟩
  · exact command_next.2 (.inr (.inl ⟨by simp [slotOk_eq_true hc], by simp [State.failedFrame, ho, hf], rfl⟩))
  · rw [exec_chreset hc (by simpa [State.failedFrame] using hno)]
    simp only [← eq_slotOf_iff hc]
    cases ho : s.status.fopen with
    | true =>
      rw [chresetBody_of_open ho]
      exact ⟨_, rfl, rfl, fun d => ⟨wAt_setW_reset _ d, by rw [if_neg (by simp)]; rfl⟩⟩
    | false =>
      rw [chresetBody_of_closed ho]
      exact ⟨_, rfl, rfl, fun d => ⟨wAt_setW_reset (s := s.setK _ _) _ d, by simp only [and_true]; exact kAt_setK_reset _ d⟩⟩

/-! ### FBEGIN -/

theorem toNat_append_eq_add {m n : Nat} (x : BitVec m) (y : BitVec n) : (x ++ y).toNat = x.toNat * 2 ^ n + y.toNat := by
  rw [BitVec.toNat_append, ← Nat.shiftLeft_add_eq_or_of_lt y.isLt, Nat.shiftLeft_eq]

theorem seqWord_toNat {n : Nat} (h : n < 1024) : (seqWord n).toNat = 2 ^ 31 + n := by
  simp only [seqWord, seqBits, toNat_append_eq_add, BitVec.toNat_ofNat]
  omega

/-- SEQ holds a counter and `n` is not its successor (40_control.md R163). -/
def sequenceBroken (s : State) (n : Nat) : Prop := s.seqValid = true ∧ n ≠ (s.seqPrev + 1) % seqMod

/-- SeqCheck changes STATUS and SEQ alone (40_control.md R163). -/
theorem seqCheck_eq (n : Nat) : s.seqCheck n = { s with status := (s.seqCheck n).status, seq := seqWord n } := by
  unfold State.seqCheck
  dsimp only
  split <;> rfl

theorem seqCheck_status_of_broken {n : Nat} (h : sequenceBroken s n) :
    (s.seqCheck n).status = s.status.raiseWarning .sequenceDiscontinuity := by
  obtain ⟨hv, hn⟩ := h
  simp [State.seqCheck, hv, hn]

theorem seqCheck_status_of_not_broken {n : Nat} (h : ¬sequenceBroken s n) : (s.seqCheck n).status = s.status := by
  have hb : (s.seqValid && n != (s.seqPrev + 1) % seqMod) = false := by
    simpa [sequenceBroken] using h
  simp [State.seqCheck, hb]

/-- FBEGIN's state, less the end of the command: SeqCheck only with SEQP = 1 (40_control.md R162). -/
def beginFrame (f m : BitVec 4) (d : BitVec 2) (indep seqp : Bool) (s : State) : State :=
  let t := s.openFrame (flbTable.getD f.toNat 0) (0#21 ++ BitVec.ofBool indep ++ d ++ m ++ f) indep
  if seqp then t.seqCheck s.argSeq else t

/-- The checks of FBEGIN (40_control.md R162). -/
def beginAllowed (f : BitVec 4) (seqp : Bool) (s : State) : Prop :=
  s.status.fopen = false ∧ f.toNat ≤ 8 ∧ s.argBase + s.argLen ≤ 16384 ∧ ¬(seqp = true ∧ 1024 ≤ s.argSeq)

section
variable {f m : BitVec 4} {d : BitVec 2} {indep seqp : Bool}

theorem fbeginBody_ok_iff :
    fbeginBody f m d indep seqp s = .ok u ↔ beginAllowed f seqp s ∧ u = beginFrame f m d indep seqp s := by
  rw [fbeginBody_ok, beginAllowed, not_and, not_le]
  simp only [and_assoc]
  rfl

theorem fbeginBody_stopsOnlyWith : StopsOnlyWith .illegalCommand (fbeginBody f m d indep seqp s) :=
  stopsOnlyWith_bind (stopsOnlyWith_require _ _) fun _ _ => stopsOnlyWith_bind (stopsOnlyWith_require _ _) fun _ _ =>
  stopsOnlyWith_bind (stopsOnlyWith_require _ _) fun _ _ => stopsOnlyWith_bind (stopsOnlyWith_require _ _) fun _ _ =>
  stopsOnlyWith_pure _ _

theorem exec_fbegin : exec (.fbegin f m d indep seqp) s = s.finish (fbeginBody f m d indep seqp s) := rfl

theorem exec_fbegin_of_not_allowed (h : ¬beginAllowed f seqp s) :
    exec (.fbegin f m d indep seqp) s = .next (s.failedWith 6) :=
  finish_of_stopsOnlyWith fbeginBody_stopsOnlyWith fun _ hu => h (fbeginBody_ok_iff.1 hu).1

theorem exec_fbegin_of_allowed (h : beginAllowed f seqp s) :
    exec (.fbegin f m d indep seqp) s = .next (beginFrame f m d indep seqp s).ended := by
  rw [exec_fbegin, fbeginBody_ok_iff.2 ⟨h, rfl⟩]
  rfl

/-- But for STATUS and SEQ the frame begins as `openFrame` says, whatever the sequence check does. -/
theorem beginFrame_eq : beginFrame f m d indep seqp s =
    { s.openFrame (flbTable.getD f.toNat 0) (0#21 ++ BitVec.ofBool indep ++ d ++ m ++ f) indep with
      status := (beginFrame f m d indep seqp s).status
      seq := if seqp then seqWord s.argSeq else s.seq } := by
  cases seqp
  · rfl
  · exact seqCheck_eq s.argSeq

theorem beginFrame_status_of_gap (hp : seqp = true) (h : sequenceBroken s s.argSeq) :
    (beginFrame f m d indep seqp s).status =
      { s.status with
        fopen := true, ffail := false, pcmv := false, warn := true
        warncode := if s.status.warn then s.status.warncode else 16 } := by
  subst hp
  refine (seqCheck_status_of_broken (s := s.openFrame _ _ _) h).trans ?_
  simp [Status.raiseWarning, Warning.code]

theorem beginFrame_status_of_no_gap (h : ¬(seqp = true ∧ sequenceBroken s s.argSeq)) :
    (beginFrame f m d indep seqp s).status = { s.status with fopen := true, ffail := false, pcmv := false } := by
  cases seqp
  · rfl
  · exact seqCheck_status_of_not_broken (s := s.openFrame _ _ _) fun hb => h ⟨rfl, hb⟩

/-- FCFG as a number (10_state.md R49). -/
theorem fcfg_toNat : (0#21 ++ BitVec.ofBool indep ++ d ++ m ++ f).toNat =
    f.toNat + 16 * m.toNat + 256 * d.toNat + 1024 * indep.toNat := by
  simp only [toNat_append_eq_add, BitVec.toNat_ofNat, BitVec.toNat_ofBool]
  omega

end

theorem chanAt_of_replicate {x : ChanFrame} (h : s.chan = Vector.replicate 8 x) (c : Fin 8) : s.chanAt c = x := by
  simp [State.chanAt, h, Vector.get_eq_getElem]

/-- Settles O36: FBEGIN answers a state exactly where its checks hold, raises IllegalCommand everywhere else, and its
state differs from `openFrame` in the sequence check alone. -/
theorem fbeginOpensFrame : Obligations.FbeginOpensFrame := by
  intro s f m d indep seqp base n len flb gap ok
  refine ⟨exec_fbegin_of_not_allowed, fun hok => ?_⟩
  have ⟨_, _, (hrange : s.argBase + s.argLen ≤ 16384), (hseq : ¬(seqp = true ∧ 1024 ≤ s.argSeq))⟩ := hok
  refine ⟨_, exec_fbegin_of_allowed hok, exec_keeps_hostSide (exec_fbegin_of_allowed hok), ?_⟩
  have hlen : (BitVec.ofNat 32 (8 * s.argLen)).toNat = 8 * s.argLen := by
    rw [BitVec.toNat_ofNat, Nat.mod_eq_of_lt (by omega)]
  have hgap (hg : gap) := beginFrame_status_of_gap (m := m) (d := d) (f := f) (indep := indep) hg.1 hg.2
  have hnogap (hg : ¬gap) := beginFrame_status_of_no_gap (m := m) (d := d) (f := f) (indep := indep) hg
  rw [beginFrame_eq]
  refine ⟨rfl, rfl, rfl, rfl, chanAt_of_replicate rfl, rfl, rfl, hlen, fcfg_toNat, fun hp => ?_, fun hp => ?_,
    fun _ => rfl, fun _ => rfl, fun hg => ?_, fun hg => ?_⟩
  · exact if_neg (by simp [hp])
  · exact (congrArg BitVec.toNat (if_pos hp)).trans (seqWord_toNat (not_le.1 fun hn => hseq ⟨hp, hn⟩))
  · exact congrArg Status.complete (hnogap hg)
  · exact congrArg Status.complete (hgap hg)

/-! ### FCOMMIT and FABORT -/

theorem exec_fcommit : exec .fcommit s = s.finish (fcommitBody s) := rfl
theorem exec_fabort : exec .fabort s = s.finish (fabortBody s) := rfl

theorem fcommitBody_stopsOnlyWith : StopsOnlyWith .illegalCommand (fcommitBody s) := by
  refine stopsOnlyWith_bind (stopsOnlyWith_require _ _) fun _ _ => ?_
  split
  · exact stopsOnlyWith_pure _ _
  · exact stopsOnlyWith_bind (stopsOnlyWith_require _ _) fun _ _ => stopsOnlyWith_pure _ _

theorem fabortBody_stopsOnlyWith : StopsOnlyWith .illegalCommand (fabortBody s) :=
  stopsOnlyWith_bind (stopsOnlyWith_require _ _) fun _ _ => stopsOnlyWith_pure _ _

theorem exec_fcommit_of_not_ok (h : ∀ u, fcommitBody s ≠ .ok u) : exec .fcommit s = .next (s.failedWith 6) :=
  finish_of_stopsOnlyWith fcommitBody_stopsOnlyWith h

theorem exec_fcommit_of_ok (h : fcommitBody s = .ok u) : exec .fcommit s = .next u.ended := by
  rw [exec_fcommit, h]
  rfl

theorem exec_fabort_of_open (h : s.status.fopen = true) : exec .fabort s = .next s.endFrame.ended := by
  rw [exec_fabort, fabortBody_ok.2 ⟨h, rfl⟩]
  rfl

theorem exec_fabort_of_closed (h : s.status.fopen = false) : exec .fabort s = .next (s.failedWith 6) :=
  finish_of_stopsOnlyWith fabortBody_stopsOnlyWith fun _ hu => by simp [fabortBody_ok, h] at hu

theorem pipelinesComplete_iff :
    s.pipelinesComplete = true ↔ ∀ c, (s.chanAt c).done = Done.empty ∨ s.done c .qmfs = true := by
  simp [State.pipelinesComplete]

theorem fcommitBody_of_failed (ho : s.status.fopen = true) (hf : s.status.ffail = true) :
    fcommitBody s = .ok s.endFrame := fcommitBody_ok.2 ⟨ho, .inl ⟨hf, rfl⟩⟩

theorem fcommitBody_of_finished (h : s.running) (hc : s.pipelinesComplete = true) :
    fcommitBody s = .ok s.commit.endFrame := by
  obtain ⟨ho, hf⟩ := h
  exact fcommitBody_ok.2 ⟨ho, .inr ⟨hf, hc, rfl⟩⟩

theorem fcommitBody_not_ok_of_unfinished (h : s.running) (hc : s.pipelinesComplete = false) :
    fcommitBody s ≠ .ok u := by
  obtain ⟨-, hf⟩ := h
  simp [fcommitBody_ok, hf, hc]

/-- F[c] has no field with a value once the frame has ended (10_state.md R84). -/
theorem endFrame_chanAt (c : Fin 8) : s.endFrame.ended.chanAt c = ChanFrame.empty := chanAt_of_replicate rfl c

/-- Settles O37: the three answers of the pseudocode are a stop, the end of a failed frame, and a commit before the end
of the frame. -/
theorem fcommitEndsFrame : Obligations.FcommitEndsFrame := by
  refine fun s => ⟨fun ho => ?_, fun hrun ⟨c, hstarted, hunfinished⟩ => ?_, fun ho hend => ?_⟩
  · exact exec_fcommit_of_not_ok fun u hu => by simp [fcommitBody_ok, ho] at hu
  · have hc : s.pipelinesComplete = false := by
      refine Bool.eq_false_iff.2 fun hc => ?_
      rcases pipelinesComplete_iff.1 hc c with h | h
      · exact hstarted h
      · simp [hunfinished] at h
    exact exec_fcommit_of_not_ok fun u => fcommitBody_not_ok_of_unfinished hrun hc
  · cases hf : s.status.ffail with
    | true =>
      have hexec := exec_fcommit_of_ok (fcommitBody_of_failed ho hf)
      exact ⟨_, hexec, exec_keeps_hostSide hexec, rfl, rfl, rfl, rfl, rfl, rfl, rfl, rfl, endFrame_chanAt,
        fun _ => ⟨rfl, rfl⟩, rfl⟩
    | false =>
      have hc : s.pipelinesComplete = true := pipelinesComplete_iff.2 (hend.resolve_left (by simp [hf]))
      have hexec := exec_fcommit_of_ok (fcommitBody_of_finished ⟨ho, hf⟩ hc)
      exact ⟨_, hexec, exec_keeps_hostSide hexec, rfl, rfl, rfl, rfl, rfl, rfl, rfl, rfl, endFrame_chanAt,
        fun _ => ⟨rfl, rfl⟩, rfl⟩

/-- Settles O38: an open frame ends as `endFrame` says, failed or not. -/
theorem fabortEndsFrame : Obligations.FabortEndsFrame := fun _ =>
  ⟨exec_fabort_of_closed, fun ho =>
    ⟨_, exec_fabort_of_open ho, exec_keeps_hostSide (exec_fabort_of_open ho), rfl, rfl, rfl, rfl, rfl, rfl, rfl, rfl,
      endFrame_chanAt, fun _ => ⟨rfl, rfl⟩, rfl⟩⟩

end Sys2Proof.Proofs

/-! SETLAYOUT (40_control.md R166, R167). The layout words of each group as one record, what the loop over the groups
answers in terms of these records, and the windows and the sample map they give. -/

namespace Sys2Proof.Proofs

open Sys2Proof Sys2Proof.Machine Sys2Proof.Laws Sys2Proof.Config

variable {s t u : State} {c : Fin 8}

/-! ### The groups of a layout -/

/-- Every SFB_OFFSETS list the frame can use is legal (40_control.md R167; log 14). -/
def offsetsLegal (s : State) : Prop :=
  ∀ n ∈ tlenTable s.frame.flb, sfbLegal (s.cfg.sfb s.frame.flb n) n = true

/-- The checks of one group's words (40_control.md R166). -/
def groupLegal (s : State) (c : Fin 8) (g : Nat) : Prop :=
  1 ≤ s.wlNwin c g ∧ (∃ len ∈ tlenTable s.frame.flb, s.wlTlen c g = len) ∧ 0 ≤ s.wlMaxsfb c g ∧
    s.wlMaxsfb c g + 1 ≤ (s.cfg.sfb s.frame.flb (s.wlTlen c g).toNat).length ∧ s.wlMaxsfb c g ≤ Config.maxSfb

/-- Group g as its words give it. -/
def groupRead (s : State) (c : Fin 8) (g : Nat) : LayoutGroup :=
  ⟨g, (s.wlStart c g).toNat, (s.wlNwin c g).toNat, (s.wlTlen c g).toNat, (s.wlMaxsfb c g).toNat⟩

theorem wlStart_succ (g : Nat) : s.wlStart c (g + 1) = s.wlStart c g + s.wlNwin c g * s.wlTlen c g := by
  simp [State.wlStart, List.range_succ]

theorem groupLegal_size_nonneg {g : Nat} (h : groupLegal s c g) : 0 ≤ s.wlNwin c g * s.wlTlen c g := by
  obtain ⟨hnw, ⟨len, -, hlen⟩, -⟩ := h
  exact mul_nonneg (by omega) (by omega)

/-- Legal groups follow one another. -/
theorem wlStart_mono {g n : Nat} (h : ∀ k, g ≤ k → k < g + n → groupLegal s c k) :
    s.wlStart c g ≤ s.wlStart c (g + n) := by
  induction n with
  | zero => simp
  | succ n ih =>
    have hsize := groupLegal_size_nonneg (h (g + n) (by omega) (by omega))
    have hstart := ih fun k hk hkn => h k hk (by omega)
    rw [← Nat.add_assoc, wlStart_succ]
    omega

theorem sfbLegal_iff {offs : List Nat} {n : Nat} :
    sfbLegal offs n = true ↔ offs.head? = some 0 ∧ offs.Pairwise (· < ·) ∧ ∀ o ∈ offs, o ≤ n := by
  simp [sfbLegal, and_assoc]

theorem length_pos_of_sfbLegal {offs : List Nat} {n : Nat} (h : sfbLegal offs n = true) : 0 < offs.length := by
  obtain ⟨hhead, -, -⟩ := sfbLegal_iff.1 h
  exact List.length_pos_of_mem (List.mem_of_mem_head? hhead)

/-- The length of group g is one of TLEN_TABLE, as SETLAYOUT checks it. -/
theorem tlen_check_iff {g : Nat} :
    (decide (0 ≤ s.wlTlen c g) && (tlenTable s.frame.flb).contains (s.wlTlen c g).toNat) = true ↔
      ∃ len ∈ tlenTable s.frame.flb, s.wlTlen c g = len := by
  rw [Bool.and_eq_true, decide_eq_true_eq, List.contains_iff_mem]
  constructor
  · rintro ⟨h0, hmem⟩
    exact ⟨_, hmem, (Int.toNat_of_nonneg h0).symm⟩
  · rintro ⟨len, hmem, hlen⟩
    rw [hlen]
    exact ⟨by omega, by simpa using hmem⟩

/-- The number of bands of group g is in range, as SETLAYOUT checks it. -/
theorem maxSfb_check_iff {g nsfb : Nat} (h : 0 < nsfb) :
    (decide (0 ≤ s.wlMaxsfb c g) && decide ((s.wlMaxsfb c g).toNat ≤ nsfb - 1)
        && decide ((s.wlMaxsfb c g).toNat ≤ Config.maxSfb)) = true ↔
      0 ≤ s.wlMaxsfb c g ∧ s.wlMaxsfb c g + 1 ≤ nsfb ∧ s.wlMaxsfb c g ≤ Config.maxSfb := by
  simp only [Bool.and_eq_true, decide_eq_true_eq]
  omega

theorem offsetsLegal_tlen (hp : offsetsLegal s) {g : Nat} (h : ∃ len ∈ tlenTable s.frame.flb, s.wlTlen c g = len) :
    sfbLegal (s.cfg.sfb s.frame.flb (s.wlTlen c g).toNat) (s.wlTlen c g).toNat = true := by
  obtain ⟨len, hmem, hlen⟩ := h
  rw [hlen]
  exact hp len hmem

/-- The loop over the groups, one turn of it, in terms of the layout words. -/
theorem layoutGroups_succ (n g off : Nat) :
    layoutGroups s c (n + 1) g off = (do
      require (decide (1 ≤ s.wlNwin c g)) .invalidBlockConfig
      require (decide (0 ≤ s.wlTlen c g) && (tlenTable s.frame.flb).contains (s.wlTlen c g).toNat) .invalidBlockConfig
      if sfbLegal (s.cfg.sfb s.frame.flb (s.wlTlen c g).toNat) (s.wlTlen c g).toNat then do
        require (decide (0 ≤ s.wlMaxsfb c g)
          && decide ((s.wlMaxsfb c g).toNat ≤ (s.cfg.sfb s.frame.flb (s.wlTlen c g).toNat).length - 1)
          && decide ((s.wlMaxsfb c g).toNat ≤ Config.maxSfb)) .invalidBlockConfig
        require (decide (off + (s.wlNwin c g).toNat * (s.wlTlen c g).toNat ≤ s.frame.flb)) .invalidBlockConfig
        let rest ← layoutGroups s c n (g + 1) (off + (s.wlNwin c g).toNat * (s.wlTlen c g).toNat)
        pure (⟨g, off, (s.wlNwin c g).toNat, (s.wlTlen c g).toNat, (s.wlMaxsfb c g).toNat⟩ :: rest)
      else .error .illegalParameter) := rfl

/-- When a turn of the loop answers: the group's checks hold, it ends inside the frame, and the turns after it answer. -/
theorem layoutGroups_succ_ok (hp : offsetsLegal s) {n g off : Nat} {gs : List LayoutGroup} :
    layoutGroups s c (n + 1) g off = .ok gs ↔
      groupLegal s c g ∧ off + (s.wlNwin c g).toNat * (s.wlTlen c g).toNat ≤ s.frame.flb ∧
      ∃ rest, layoutGroups s c n (g + 1) (off + (s.wlNwin c g).toNat * (s.wlTlen c g).toNat) = .ok rest ∧
        gs = ⟨g, off, (s.wlNwin c g).toNat, (s.wlTlen c g).toNat, (s.wlMaxsfb c g).toNat⟩ :: rest := by
  rw [layoutGroups_succ]
  simp only [bind_ok, require_ok, exists_const, tlen_check_iff, decide_eq_true_eq, groupLegal, and_assoc]
  refine and_congr_right fun _ => and_congr_right fun hlen => ?_
  have hoffs := offsetsLegal_tlen hp hlen
  rw [if_pos hoffs]
  simp only [bind_ok, require_ok, pure_ok, exists_const, maxSfb_check_iff (length_pos_of_sfbLegal hoffs),
    decide_eq_true_eq, and_assoc]

theorem layoutGroups_stopsOnlyWith (hp : offsetsLegal s) (n g off : Nat) :
    StopsOnlyWith .invalidBlockConfig (layoutGroups s c n g off) := by
  induction n generalizing g off with
  | zero => exact stopsOnlyWith_bind (stopsOnlyWith_require _ _) fun _ _ => stopsOnlyWith_pure _ _
  | succ n ih =>
    rw [layoutGroups_succ]
    refine stopsOnlyWith_bind (stopsOnlyWith_require _ _) fun _ _ =>
      stopsOnlyWith_bind (stopsOnlyWith_require _ _) fun _ hlen => ?_
    rw [if_pos (offsetsLegal_tlen hp (tlen_check_iff.1 (require_ok.1 hlen)))]
    exact stopsOnlyWith_bind (stopsOnlyWith_require _ _) fun _ _ =>
      stopsOnlyWith_bind (stopsOnlyWith_require _ _) fun _ _ => stopsOnlyWith_bind (ih _ _) fun _ _ =>
      stopsOnlyWith_pure _ _

/-- The number of samples of a legal group, without the truncation of the model's naturals. -/
theorem groupLegal_size {g : Nat} (h : groupLegal s c g) :
    ((s.wlNwin c g).toNat * (s.wlTlen c g).toNat : Nat) = s.wlNwin c g * s.wlTlen c g := by
  obtain ⟨hnw, ⟨len, -, hlen⟩, -⟩ := h
  rw [Nat.cast_mul, Int.toNat_of_nonneg (by omega), Int.toNat_of_nonneg (by omega)]

/-- The loop over the groups answers the groups as their words give them, if each is legal and they fill the frame. -/
theorem layoutGroups_ok_iff (hp : offsetsLegal s) {n g off : Nat} {gs : List LayoutGroup}
    (hoff : (off : Int) = s.wlStart c g) :
    layoutGroups s c n g off = .ok gs ↔
      (∀ k, g ≤ k → k < g + n → groupLegal s c k) ∧ s.wlStart c (g + n) = s.frame.flb ∧
        gs = (List.range' g n).map (groupRead s c) := by
  induction n generalizing g off gs with
  | zero =>
    simp only [layoutGroups, bind_ok, require_ok, pure_ok, decide_eq_true_eq, exists_const, Nat.add_zero, ← hoff]
    simp
    omega
  | succ n ih =>
    have hread : (⟨g, off, (s.wlNwin c g).toNat, (s.wlTlen c g).toNat, (s.wlMaxsfb c g).toNat⟩ : LayoutGroup) =
        groupRead s c g := by simp [groupRead, ← hoff]
    have hnext (h : groupLegal s c g) :
        ((off + (s.wlNwin c g).toNat * (s.wlTlen c g).toNat : Nat) : Int) = s.wlStart c (g + 1) := by
      rw [wlStart_succ, Nat.cast_add, groupLegal_size h, hoff]
    rw [layoutGroups_succ_ok hp, hread, show g + (n + 1) = g + 1 + n by omega, List.range'_succ, List.map_cons]
    constructor
    · rintro ⟨hg, -, rest, hrest, rfl⟩
      obtain ⟨hlegal, hend, rfl⟩ := (ih (hnext hg)).1 hrest
      refine ⟨fun k hk hkn => ?_, hend, rfl⟩
      rcases Nat.eq_or_lt_of_le hk with rfl | hlt
      · exact hg
      · exact hlegal k hlt hkn
    · rintro ⟨hlegal, hend, rfl⟩
      have hg := hlegal g le_rfl (by omega)
      have hlater : ∀ k, g + 1 ≤ k → k < g + 1 + n → groupLegal s c k := fun k hk => hlegal k (by omega)
      have hfits := wlStart_mono hlater
      exact ⟨hg, by have := hnext hg; omega, _, (ih (hnext hg)).2 ⟨hlater, hend, rfl⟩, rfl⟩

/-- The groups SETLAYOUT reads. -/
def groupsRead (s : State) (c : Fin 8) : List LayoutGroup :=
  (List.range (s.simWord c Sim.wlNgroups).toNat).map (groupRead s c)

/-- SETLAYOUT's state, less the end of the command. -/
def layoutSet (s : State) (c : Fin 8) : State :=
  (s.setW c ((s.wAt c).withLayout s.cfg s.frame.flb (groupsRead s c))).markDone c .layout

theorem layoutLegal_iff : s.layoutLegal c ↔
    1 ≤ s.simWord c Sim.wlNgroups ∧ s.simWord c Sim.wlNgroups ≤ 16 ∧
    (∀ g < (s.simWord c Sim.wlNgroups).toNat, groupLegal s c g) ∧
    s.wlStart c (s.simWord c Sim.wlNgroups).toNat = s.frame.flb := Iff.rfl

theorem setlayoutBody_ok_iff (hp : offsetsLegal s) (ho : s.status.fopen = true) :
    setlayoutBody c s = .ok u ↔ s.layoutLegal c ∧ u = layoutSet s c := by
  rw [setlayoutBody_ok, layoutLegal_iff]
  have hstart : ((0 : Nat) : Int) = s.wlStart c 0 := rfl
  simp only [layoutGroups_ok_iff hp hstart, ho, true_and, Nat.zero_le, Nat.zero_add, forall_const, and_assoc,
    exists_and_left, exists_eq_left, ← List.range_eq_range']
  rfl

theorem setlayoutBody_stopsOnlyWith (hp : offsetsLegal s) (ho : s.status.fopen = true) :
    StopsOnlyWith .invalidBlockConfig (setlayoutBody c s) := by
  have hopen : s.requireOpen = .ok () := by simp [ho]
  unfold setlayoutBody
  rw [hopen]
  exact stopsOnlyWith_bind (stopsOnlyWith_pure _ ()) fun _ _ => stopsOnlyWith_bind (stopsOnlyWith_require _ _) fun _ _ =>
    stopsOnlyWith_bind (layoutGroups_stopsOnlyWith hp _ _ _) fun _ _ => stopsOnlyWith_pure _ _

/-! ### The sample map -/

theorem find?_eq_some_iff_of_unique {α : Type} {l : List α} {p : α → Bool} {a : α}
    (hu : ∀ x ∈ l, ∀ y ∈ l, p x = true → p y = true → x = y) : l.find? p = some a ↔ a ∈ l ∧ p a = true := by
  refine ⟨fun h => ⟨List.mem_of_find?_eq_some h, List.find?_some h⟩, fun ⟨ha, hpa⟩ => ?_⟩
  cases hf : l.find? p with
  | none => exact absurd hpa (List.find?_eq_none.1 hf a ha)
  | some b => rw [hu b (List.mem_of_find?_eq_some hf) a ha (List.find?_some hf) hpa]

/-- Sample `k` of a window is in band `b` (40_control.md R167). -/
def inBand (offs : List Nat) (b k : Nat) : Prop := offs.getD b 0 ≤ k ∧ k < offs.getD (b + 1) 0

/-- The bands of a rising list do not overlap: a later band begins at the end of an earlier one or after it. -/
theorem inBand_unique {offs : List Nat} (hr : offs.Pairwise (· < ·)) {a b k : Nat} (ha : inBand offs a k)
    (hb : inBand offs b k) : a = b := by
  have ordered {i j : Nat} (hi : inBand offs i k) (hj : inBand offs j k) : ¬i < j := by
    intro hij
    obtain ⟨-, hi⟩ := hi
    obtain ⟨hj, hend⟩ := hj
    have hlen : j < offs.length := by
      by_contra hno
      rw [List.getD_eq_default offs 0 (show offs.length ≤ j + 1 by omega)] at hend
      omega
    rw [List.getD_eq_getElem offs 0 (show i + 1 < offs.length by omega)] at hi
    rw [List.getD_eq_getElem offs 0 hlen] at hj
    rcases Nat.eq_or_lt_of_le (show i + 1 ≤ j from hij) with rfl | hlt
    · omega
    · have := List.pairwise_iff_getElem.1 hr (i + 1) j (by omega) hlen hlt
      omega
  have hab := ordered ha hb
  have hba := ordered hb ha
  omega

/-- A band lies inside the window. -/
theorem lt_of_inBand {offs : List Nat} {n b k : Nat} (h : sfbLegal offs n = true) (hb : inBand offs b k) : k < n := by
  obtain ⟨-, -, hle⟩ := sfbLegal_iff.1 h
  obtain ⟨-, hk⟩ := hb
  by_cases hlen : b + 1 < offs.length
  · rw [List.getD_eq_getElem offs 0 hlen] at hk
    exact lt_of_lt_of_le hk (hle _ (List.getElem_mem hlen))
  · rw [List.getD_eq_default offs 0 (not_lt.1 hlen)] at hk
    omega

theorem bandOf_eq_some_iff {offs : List Nat} {n m k b : Nat} (h : sfbLegal offs n = true) :
    bandOf offs m k = some b ↔ b < m ∧ inBand offs b k := by
  obtain ⟨-, hr, -⟩ := sfbLegal_iff.1 h
  have hp (a : Nat) : (decide (offs.getD a 0 ≤ k) && decide (k < offs.getD (a + 1) 0)) = true ↔ inBand offs a k := by
    simp [inBand]
  rw [bandOf, find?_eq_some_iff_of_unique fun a _ b _ ha hb => inBand_unique hr ((hp a).1 ha) ((hp b).1 hb), hp,
    List.mem_range]

/-- Sample `t` of the frame is one of the group's. -/
def holdsSample (x : LayoutGroup) (t : Nat) : Prop := x.off ≤ t ∧ t < x.off + x.nwin * x.tlen

/-- A sample of a group is sample `(t - off) mod tlen` of the window that holds it. -/
theorem inBand_window_iff {x : LayoutGroup} {offs : List Nat} {t b : Nat} (h : sfbLegal offs x.tlen = true) :
    (holdsSample x t ∧ inBand offs b ((t - x.off) % x.tlen)) ↔
      ∃ w ∈ x.windows, w.off ≤ t ∧ inBand offs b (t - w.off) := by
  simp only [LayoutGroup.windows, List.mem_map, List.mem_range, exists_exists_and_eq_and]
  constructor
  · rintro ⟨⟨hlo, hhi⟩, hb⟩
    have hdiv := Nat.div_add_mod' (t - x.off) x.tlen
    refine ⟨(t - x.off) / x.tlen, Nat.div_lt_of_lt_mul ?_, by omega, ?_⟩
    · rw [Nat.mul_comm]; omega
    · rwa [show t - (x.off + (t - x.off) / x.tlen * x.tlen) = (t - x.off) % x.tlen by omega]
  · rintro ⟨w, hw, hlo, hb⟩
    have hlt := lt_of_inBand h hb
    have hlast : (w + 1) * x.tlen ≤ x.nwin * x.tlen := Nat.mul_le_mul_right _ hw
    rw [Nat.add_mul, Nat.one_mul] at hlast
    refine ⟨⟨by omega, by omega⟩, ?_⟩
    rwa [show t - x.off = w * x.tlen + (t - (x.off + w * x.tlen)) by omega, Nat.mul_add_mod',
      Nat.mod_eq_of_lt hlt]

/-- The sample map of groups that do not overlap: sample `t` maps to (g, b) exactly if it is in band `b` of a window of
a group numbered `g` (40_control.md R167). -/
theorem sampleMapAt_iff {p : Params} {flb : Nat} {gs : List LayoutGroup} {t g b : Nat}
    (hu : ∀ x ∈ gs, ∀ y ∈ gs, holdsSample x t → holdsSample y t → x = y)
    (hoffs : ∀ x ∈ gs, sfbLegal (p.sfb flb x.tlen) x.tlen = true) :
    sampleMapAt p flb gs t = some (g, b) ↔
      ∃ x ∈ gs, x.grp = g ∧ b < x.maxSfb ∧
        ∃ w ∈ x.windows, w.off ≤ t ∧ inBand (p.sfb flb x.tlen) b (t - w.off) := by
  have hp (x : LayoutGroup) : (decide (x.off ≤ t) && decide (t < x.off + x.nwin * x.tlen)) = true ↔ holdsSample x t := by
    simp [holdsSample]
  have hfind (x : LayoutGroup) : gs.find? (fun x => decide (x.off ≤ t) && decide (t < x.off + x.nwin * x.tlen)) = some x ↔
      x ∈ gs ∧ holdsSample x t := by
    rw [find?_eq_some_iff_of_unique fun x hx y hy h1 h2 => hu x hx y hy ((hp x).1 h1) ((hp y).1 h2), hp]
  calc sampleMapAt p flb gs t = some (g, b)
      ↔ ∃ x, (x ∈ gs ∧ holdsSample x t) ∧
          x.grp = g ∧ bandOf (p.sfb flb x.tlen) x.maxSfb ((t - x.off) % x.tlen) = some b := by
        simp only [← hfind]
        unfold sampleMapAt
        split
        · next hnone => simp [hnone]
        · next x hsome => simp [hsome, and_comm]
    _ ↔ _ := by
        refine exists_congr fun x => ?_
        rw [and_assoc]
        refine and_congr_right fun hx => ?_
        rw [bandOf_eq_some_iff (hoffs x hx), ← inBand_window_iff (hoffs x hx)]
        tauto

/-! ### What SETLAYOUT writes -/

theorem mem_groupsRead {x : LayoutGroup} :
    x ∈ groupsRead s c ↔ ∃ g < (s.simWord c Sim.wlNgroups).toNat, groupRead s c g = x := by
  simp [groupsRead]

/-- A field of group g, 0 behind the last group. -/
theorem groupsRead_getD (f : LayoutGroup → Nat) (g : Nat) :
    ((groupsRead s c)[g]?.map f).getD 0 =
      if g < (s.simWord c Sim.wlNgroups).toNat then f (groupRead s c g) else 0 := by
  unfold groupsRead
  split
  · next h => simp [h]
  · next h => simp [h]

theorem le_of_mem_tlenTable {n flb : Nat} (h : n ∈ tlenTable flb) : flb ≤ 2048 := by
  unfold tlenTable at h
  split at h <;> simp at h ⊢

section
variable (hl : s.layoutLegal c)
include hl

theorem groupLegal_of_layoutLegal {g : Nat} (h : g < (s.simWord c Sim.wlNgroups).toNat) : groupLegal s c g := by
  obtain ⟨-, -, hg, -⟩ := layoutLegal_iff.1 hl
  exact hg g h

/-- No group begins before the frame, and none ends behind a later one's first sample. -/
theorem wlStart_le_of_layoutLegal {g k : Nat} (hgk : g ≤ k) (hk : k ≤ (s.simWord c Sim.wlNgroups).toNat) :
    s.wlStart c g ≤ s.wlStart c k := by
  obtain ⟨n, rfl⟩ := Nat.exists_eq_add_of_le hgk
  exact wlStart_mono fun j _ hj => groupLegal_of_layoutLegal hl (by omega)

theorem holdsSample_groupRead {g k : Nat} (h : g < (s.simWord c Sim.wlNgroups).toNat) :
    holdsSample (groupRead s c g) k ↔ s.wlStart c g ≤ k ∧ (k : Int) < s.wlStart c (g + 1) := by
  have hsize := groupLegal_size (groupLegal_of_layoutLegal hl h)
  have h0 : 0 ≤ s.wlStart c g := wlStart_le_of_layoutLegal hl (Nat.zero_le g) h.le
  rw [wlStart_succ]
  simp only [holdsSample, groupRead]
  omega

theorem groupsRead_disjoint {k : Nat} :
    ∀ x ∈ groupsRead s c, ∀ y ∈ groupsRead s c, holdsSample x k → holdsSample y k → x = y := by
  intro x hx y hy hkx hky
  obtain ⟨g, hg, rfl⟩ := mem_groupsRead.1 hx
  obtain ⟨j, hj, rfl⟩ := mem_groupsRead.1 hy
  rw [holdsSample_groupRead hl hg] at hkx
  rw [holdsSample_groupRead hl hj] at hky
  rcases Nat.lt_trichotomy g j with h | rfl | h
  · have := wlStart_le_of_layoutLegal hl (show g + 1 ≤ j from h) hj.le
    omega
  · rfl
  · have := wlStart_le_of_layoutLegal hl (show j + 1 ≤ g from h) hg.le
    omega

theorem groupsRead_offsetsLegal (hp : offsetsLegal s) :
    ∀ x ∈ groupsRead s c, sfbLegal (s.cfg.sfb s.frame.flb x.tlen) x.tlen = true := by
  intro x hx
  obtain ⟨g, hg, rfl⟩ := mem_groupsRead.1 hx
  obtain ⟨-, hlen, -⟩ := groupLegal_of_layoutLegal hl hg
  exact offsetsLegal_tlen hp hlen

/-- A sample of a group is a sample of the frame, which has at most 2048. -/
theorem lt_of_holdsSample {x : LayoutGroup} {k : Nat} (hx : x ∈ groupsRead s c) (hk : holdsSample x k) : k < 2048 := by
  obtain ⟨g, hg, rfl⟩ := mem_groupsRead.1 hx
  obtain ⟨-, -, -, hend⟩ := layoutLegal_iff.1 hl
  obtain ⟨-, ⟨len, hmem, -⟩, -⟩ := groupLegal_of_layoutLegal hl hg
  have hflb := le_of_mem_tlenTable hmem
  have hlast := wlStart_le_of_layoutLegal hl (show g + 1 ≤ _ from hg) le_rfl
  rw [holdsSample_groupRead hl hg] at hk
  omega

/-- The sample map in terms of the groups (40_control.md R167). -/
theorem mapAt_withLayout_iff (hp : offsetsLegal s) (y : ChannelState) {k g b : Nat} :
    (y.withLayout s.cfg s.frame.flb (groupsRead s c)).mapAt k = some (g, b) ↔
      ∃ x ∈ groupsRead s c, x.grp = g ∧ b < x.maxSfb ∧
        ∃ w ∈ x.windows, w.off ≤ k ∧ inBand (s.cfg.sfb s.frame.flb x.tlen) b (k - w.off) := by
  have hoffs := groupsRead_offsetsLegal hl hp
  rw [← sampleMapAt_iff (groupsRead_disjoint hl) hoffs]
  by_cases hk : k < 2048
  · simp [ChannelState.mapAt, ChannelState.withLayout, atD, hk]
  · have hnone : (y.withLayout s.cfg s.frame.flb (groupsRead s c)).mapAt k = none := by
      simp [ChannelState.mapAt, ChannelState.withLayout, atD, hk]
    simp only [hnone, reduceCtorEq, false_iff]
    rw [sampleMapAt_iff (groupsRead_disjoint hl) hoffs]
    rintro ⟨x, hx, -, -, hw⟩
    exact hk (lt_of_holdsSample hl hx ((inBand_window_iff (hoffs x hx)).2 hw).1)

end

theorem doneAdds_add (x : Stage) (d : Done) : doneAdds x d (d.add x) := by
  intro y
  by_cases h : y = x
  · subst h; simp
  · simp [done_has_add_other d x y h, h]

/-- SETLAYOUT with a legal slot in a running frame (40_control.md R166). -/
theorem exec_setlayout {c : BitVec 4} (hs : s.running) (hc : c.toNat < 8) :
    exec (.setlayout c) s = s.finish (setlayoutBody (slotOf c) s) := command_eq_finish hc (failedFrame_of_running hs)

theorem exec_setlayout_of_legal {c : BitVec 4} (hs : s.running) (hc : c.toNat < 8) (hp : offsetsLegal s)
    (hl : s.layoutLegal (slotOf c)) : exec (.setlayout c) s = .next (layoutSet s (slotOf c)).ended := by
  obtain ⟨ho, -⟩ := id hs
  rw [exec_setlayout hs hc, (setlayoutBody_ok_iff hp ho).2 ⟨hl, rfl⟩]
  rfl

theorem exec_setlayout_of_not_legal {c : BitVec 4} (hs : s.running) (hc : c.toNat < 8) (hp : offsetsLegal s)
    (hl : ¬s.layoutLegal (slotOf c)) : exec (.setlayout c) s = .next (s.failedWith 4) := by
  obtain ⟨ho, -⟩ := id hs
  rw [exec_setlayout hs hc]
  exact finish_of_stopsOnlyWith (setlayoutBody_stopsOnlyWith hp ho) fun _ hu =>
    hl ((setlayoutBody_ok_iff hp ho).1 hu).1

theorem layoutSet_wAt :
    (layoutSet s c).ended.wAt c = (s.wAt c).withLayout s.cfg s.frame.flb (groupsRead s c) := wAt_setW s c _

theorem layoutSet_chanAt :
    (layoutSet s c).ended.chanAt c = { s.chanAt c with done := (s.chanAt c).done.add .layout } :=
  chanAt_markDone (s.setW c _) c .layout

theorem layoutSet_keeps_otherSlots : otherSlotsKept [c] s (layoutSet s c).ended := by
  intro d hd
  rw [List.mem_singleton] at hd
  exact ⟨wAt_setW_other s c d _ hd, chanAt_markDone_other (s.setW c _) c d .layout hd⟩

/-- A field of the layout that is an array over the groups, as an integer. -/
theorem groupField_eq {f : LayoutGroup → Nat} {v : Nat → Int} (v_nonneg : ∀ g, groupLegal s c g → 0 ≤ v g)
    (hf : ∀ g, f (groupRead s c g) = (v g).toNat) (hl : s.layoutLegal c) (g : Nat) :
    ((((groupsRead s c)[g]?.map f).getD 0 : Nat) : Int) =
      if g < (s.simWord c Sim.wlNgroups).toNat then v g else 0 := by
  rw [groupsRead_getD]
  split
  · next h => rw [hf, Int.toNat_of_nonneg (v_nonneg g (groupLegal_of_layoutLegal hl h))]
  · rfl

theorem withLayout_arrays (hl : s.layoutLegal c) (y : ChannelState) (g : Fin 16) :
    let z := y.withLayout s.cfg s.frame.flb (groupsRead s c)
    let groups := (s.simWord c Sim.wlNgroups).toNat
    (z.nwin.get g : Int) = (if g.val < groups then s.wlNwin c g else 0) ∧
    (z.tlen.get g : Int) = (if g.val < groups then s.wlTlen c g else 0) ∧
    (z.maxSfb.get g : Int) = (if g.val < groups then s.wlMaxsfb c g else 0) := by
  have nwin_nonneg (g : Nat) (h : groupLegal s c g) : 0 ≤ s.wlNwin c g := by
    obtain ⟨hnw, -⟩ := h
    omega
  have tlen_nonneg (g : Nat) (h : groupLegal s c g) : 0 ≤ s.wlTlen c g := by
    obtain ⟨-, ⟨len, -, hlen⟩, -⟩ := h
    omega
  have maxSfb_nonneg (g : Nat) (h : groupLegal s c g) : 0 ≤ s.wlMaxsfb c g := by
    obtain ⟨-, -, hms, -⟩ := h
    exact hms
  intro z groups
  simp only [z, ChannelState.withLayout, Vector.get_eq_getElem, Vector.getElem_ofFn]
  exact ⟨groupField_eq nwin_nonneg (fun _ => rfl) hl g, groupField_eq tlen_nonneg (fun _ => rfl) hl g,
    groupField_eq maxSfb_nonneg (fun _ => rfl) hl g⟩

theorem withLayout_wins (hl : s.layoutLegal c) (y : ChannelState) :
    let z := y.withLayout s.cfg s.frame.flb (groupsRead s c)
    z.wins = (List.range (s.simWord c Sim.wlNgroups).toNat).flatMap (fun g =>
      (List.range (z.nwin.toList.getD g 0)).map (fun w =>
        ⟨(s.wlStart c g).toNat + w * (s.wlTlen c g).toNat, (s.wlTlen c g).toNat, g⟩)) := by
  intro z
  obtain ⟨-, hn, -⟩ := layoutLegal_iff.1 hl
  have hnwin (g : Nat) (hg : g < (s.simWord c Sim.wlNgroups).toNat) :
      z.nwin.toList.getD g 0 = (s.wlNwin c g).toNat := by
    have hg16 : g < 16 := by omega
    rw [List.getD_eq_getElem _ _ (by simpa using hg16)]
    simpa [z, ChannelState.withLayout, hg, groupRead] using groupsRead_getD (s := s) (c := c) (·.nwin) g
  show (groupsRead s c).flatMap LayoutGroup.windows = _
  rw [groupsRead, List.flatMap_map]
  refine List.flatMap_congr fun g hg => ?_
  rw [hnwin g (List.mem_range.1 hg)]
  rfl

theorem window_of_group {x : LayoutGroup} {w : Window} (h : w ∈ x.windows) : w.grp = x.grp ∧ w.len = x.tlen := by
  obtain ⟨k, -, rfl⟩ := List.mem_map.1 h
  exact ⟨rfl, rfl⟩

/-- The bands of a group as SETLAYOUT reads it. -/
theorem lt_maxSfb_iff {x : LayoutGroup} {b : Nat} (h : x ∈ groupsRead s c) :
    b < x.maxSfb ↔ (b : Int) < s.wlMaxsfb c x.grp := by
  obtain ⟨g, -, rfl⟩ := mem_groupsRead.1 h
  exact Int.lt_toNat

theorem withLayout_mapAt (hl : s.layoutLegal c) (hp : offsetsLegal s) (y : ChannelState) (k g b : Nat) :
    let z := y.withLayout s.cfg s.frame.flb (groupsRead s c)
    z.mapAt k = some (g, b) ↔ ∃ w ∈ z.wins, w.grp = g ∧ (b : Int) < s.wlMaxsfb c g ∧ w.off ≤ k ∧
      inBand (s.cfg.sfb s.frame.flb w.len) b (k - w.off) := by
  intro z
  rw [mapAt_withLayout_iff hl hp]
  constructor
  · rintro ⟨x, hx, rfl, hb, w, hw, hk, hband⟩
    obtain ⟨hgrp, hlen⟩ := window_of_group hw
    exact ⟨w, List.mem_flatMap.2 ⟨x, hx, hw⟩, hgrp, (lt_maxSfb_iff hx).1 hb, hk, hlen ▸ hband⟩
  · rintro ⟨w, hw, rfl, hb, hk, hband⟩
    obtain ⟨x, hx, hwx⟩ := List.mem_flatMap.1 hw
    obtain ⟨hgrp, hlen⟩ := window_of_group hwx
    exact ⟨x, hx, hgrp.symm, (lt_maxSfb_iff hx).2 (hgrp ▸ hb), w, hwx, hk, hlen ▸ hband⟩

/-- Settles O39: the pseudocode answers a state exactly for a legal layout and raises InvalidBlockConfig for every
other; what it writes is said of the groups it reads. -/
theorem setlayoutLoadsLayout : Obligations.SetlayoutLoadsLayout := by
  refine fun s c hs hc hp => ⟨exec_setlayout_of_not_legal hs hc hp, fun hl => ?_⟩
  have hexec := exec_setlayout_of_legal hs hc hp hl
  refine ⟨_, hexec, ⟨⟨exec_keeps_hostSide hexec, ⟨rfl, rfl, rfl, rfl, rfl⟩, layoutSet_keeps_otherSlots, rfl⟩, rfl⟩,
    ⟨rfl, rfl, rfl⟩, rfl, ?_, ?_, ?_⟩
  · rw [layoutSet_chanAt]
  · rw [layoutSet_chanAt]
    exact doneAdds_add _ _
  · rw [layoutSet_wAt]
    refine ⟨?_, withLayout_arrays hl _, withLayout_wins hl _, withLayout_mapAt hl hp _⟩
    simp [ChannelState.withLayout, groupsRead]

end Sys2Proof.Proofs

/-! BitReader commands (41_bitreader.md R190 to R198). What a field, a bit string and a code table say of the bits at a
cursor; what each loop does with bits it only passes over and how its next turn ends; then the four commands. -/

namespace Sys2Proof.Proofs

open Sys2Proof Sys2Proof.Machine Sys2Proof.Laws Sys2Proof.Config

variable {s : State}

/-! ### How a BitReader command ends -/

section
variable {ok : Bool} {m : State → BitM Nat}

/-- Outside a failed frame a command without slots is its pseudocode. -/
theorem command_nil_eq_finish {body : State → Except Stop State} (hf : s.failedFrame = false) :
    s.command [] body = s.finish (body s) := by
  simp [State.command, hf]

theorem readCommand_of_running (hs : s.running) :
    readCommand true m s = (s.reading (m s)).map fun r => s.setRead r.1 r.2 := by
  obtain ⟨ho, -⟩ := hs
  simp only [readCommand, State.requireOpen, require, ho]
  cases s.reading (m s) <;> rfl

theorem command_read_of_closed (ho : s.status.fopen = false) :
    s.command [] (readCommand ok m) = .next (s.failedWith 6) := by
  rw [command_nil_eq_finish (by simp [State.failedFrame, ho])]
  simp only [readCommand, State.requireOpen, require, ho]
  rfl

theorem command_read_of_bad_operand (hs : s.running) (hok : ok = false) :
    s.command [] (readCommand ok m) = .next (s.failedWith 6) := by
  rw [command_nil_eq_finish (failedFrame_of_running hs)]
  obtain ⟨ho, -⟩ := hs
  simp only [readCommand, State.requireOpen, require, ho, hok]
  rfl

theorem command_read_of_raise {e : FatalError} (hs : s.running) (hok : ok = true)
    (hm : m s s.bitpos.toNat = raise e) : s.command [] (readCommand ok m) = .next (s.failedWith e.code) := by
  rw [hok, command_nil_eq_finish (failedFrame_of_running hs), readCommand_of_running hs, State.reading, hm]
  rfl

theorem command_read_of_ok {v pos : Nat} (hs : s.running) (hok : ok = true) (hm : m s s.bitpos.toNat = .ok (v, pos)) :
    s.command [] (readCommand ok m) =
      .next { s.ended with result := BitVec.ofNat 32 v, bitpos := BitVec.ofNat 32 pos } := by
  rw [hok, command_nil_eq_finish (failedFrame_of_running hs), readCommand_of_running hs, State.reading, hm]
  rfl

end

theorem exec_rdbits (n : BitVec 6) (s : State) :
    exec (.rdbits n) s = s.command [] (readCommand (decide (n.toNat ≤ 32)) fun s => readBits s n.toNat) := rfl

theorem exec_rdunary (stop : Bool) (maxLen : BitVec 16) (s : State) :
    exec (.rdunary stop maxLen) s = s.command [] (readCommand true fun s => readUnary s stop maxLen.toNat) := rfl

theorem exec_rdvlc (t : BitVec 8) (s : State) :
    exec (.rdvlc t) s = s.command [] (readCommand true fun s => readVlc s t.toNat) := rfl

theorem exec_rdesc (base : BitVec 5) (s : State) :
    exec (.rdesc base) s = s.command [] (readCommand (decide (1 ≤ base.toNat) && decide (base.toNat ≤ 16))
      fun s => readEsc s base.toNat s.arg0.toNat) := rfl

/-! ### Reading computations in sequence -/

section
variable {α β : Type} {m : BitM α} {f : α → BitM β} {pos p : Nat}

theorem bitM_bind_of_ok {a : α} (h : m pos = .ok (a, p)) : (m >>= f) pos = f a p := by
  show (m pos >>= fun r => f r.1 r.2) = f a p
  rw [h]
  rfl

theorem bitM_bind_of_raise {e : FatalError} (h : m pos = raise e) : (m >>= f) pos = raise e := by
  show (m pos >>= fun r => f r.1 r.2) = raise e
  rw [h]
  rfl

end

/-! ### Bits and fields -/

theorem getBit_of_lt {pos : Nat} (h : pos < s.bitlen.toNat) : getBit s pos = .ok (s.bitAt pos, pos + 1) := if_pos h

theorem getBit_of_le {pos : Nat} (h : s.bitlen.toNat ≤ pos) : getBit s pos = raise .truncated :=
  if_neg (Nat.not_lt.2 h)

theorem fieldAt_succ (pos n : Nat) : s.fieldAt pos (n + 1) = 2 * s.fieldAt pos n + (s.bitAt (pos + n)).toNat := rfl

theorem fieldAt_lt (pos n : Nat) : s.fieldAt pos n < 2 ^ n := by
  induction n with
  | zero => simp [State.fieldAt]
  | succ n ih =>
    have hbit := Bool.toNat_lt (s.bitAt (pos + n))
    rw [fieldAt_succ, Nat.pow_succ]
    omega

/-- The first bit of a field is its most significant one. -/
theorem fieldAt_succ_eq_first (pos n : Nat) :
    s.fieldAt pos (n + 1) = (s.bitAt pos).toNat * 2 ^ n + s.fieldAt (pos + 1) n := by
  induction n with
  | zero => simp [State.fieldAt]
  | succ n ih =>
    rw [fieldAt_succ, ih, fieldAt_succ, Nat.pow_succ, show pos + 1 + n = pos + (n + 1) by omega]
    ring

theorem readBitsFrom_of_le (n v : Nat) {pos : Nat} (h : pos + n ≤ s.bitlen.toNat) :
    readBitsFrom s n v pos = .ok (v * 2 ^ n + s.fieldAt pos n, pos + n) := by
  induction n generalizing v pos with
  | zero => simp [readBitsFrom, State.fieldAt, pure, StateT.pure, Except.pure]
  | succ n ih =>
    calc readBitsFrom s (n + 1) v pos
        = readBitsFrom s n (2 * v + (s.bitAt pos).toNat) (pos + 1) := bitM_bind_of_ok (getBit_of_lt (by omega))
      _ = .ok ((2 * v + (s.bitAt pos).toNat) * 2 ^ n + s.fieldAt (pos + 1) n, pos + 1 + n) := ih _ (by omega)
      _ = .ok (v * 2 ^ (n + 1) + s.fieldAt pos (n + 1), pos + (n + 1)) := by
        rw [fieldAt_succ_eq_first, Nat.pow_succ, show pos + 1 + n = pos + (n + 1) by omega]
        ring_nf

theorem readBits_of_le {n pos : Nat} (h : pos + n ≤ s.bitlen.toNat) :
    readBits s n pos = .ok (s.fieldAt pos n, pos + n) := by
  have hloop := readBitsFrom_of_le n 0 h
  rw [Nat.zero_mul, Nat.zero_add] at hloop
  exact (if_pos h).trans hloop

theorem readBits_of_lt {n pos : Nat} (h : s.bitlen.toNat < pos + n) : readBits s n pos = raise .truncated :=
  if_neg (Nat.not_le.2 h)

/-! ### Bit strings as fields -/

theorem length_bitsOf (v n : Nat) : (bitsOf v n).length = n := by
  induction n with
  | zero => rfl
  | succ n ih => simp [bitsOf, ih]

theorem holdsBits_nil {p : Nat} : s.holdsBits p [] ↔ p ≤ s.bitlen.toNat := by
  simp [State.holdsBits]

theorem holdsBits_cons {p : Nat} {b : Bool} {l : List Bool} :
    s.holdsBits p (b :: l) ↔ s.bitAt p = b ∧ s.holdsBits (p + 1) l := by
  simp only [State.holdsBits, List.length_cons, show p + (l.length + 1) = p + 1 + l.length by omega]
  constructor
  · rintro ⟨hend, hbits⟩
    refine ⟨hbits 0 (by omega), hend, fun k hk => ?_⟩
    have := hbits (k + 1) (by omega)
    rwa [show p + 1 + k = p + (k + 1) by omega]
  · rintro ⟨hb, hend, hbits⟩
    refine ⟨hend, fun k hk => ?_⟩
    cases k with
    | zero => exact hb
    | succ k =>
      rw [show p + (k + 1) = p + 1 + k by omega]
      exact hbits k (by omega)

theorem holdsBits_append {p : Nat} {l l' : List Bool} :
    s.holdsBits p (l ++ l') ↔ s.holdsBits p l ∧ s.holdsBits (p + l.length) l' := by
  induction l generalizing p with
  | nil =>
    simp only [List.nil_append, holdsBits_nil, List.length_nil, Nat.add_zero]
    exact ⟨fun h => ⟨(Nat.le_add_right _ _).trans h.1, h⟩, And.right⟩
  | cons b l ih =>
    rw [List.cons_append, holdsBits_cons, holdsBits_cons, ih, and_assoc, List.length_cons,
      show p + 1 + l.length = p + (l.length + 1) by omega]

/-- The range begins with the last `n` bits of a number where the field there is that number, modulo 2^n. -/
theorem holdsBits_bitsOf {p v n : Nat} :
    s.holdsBits p (bitsOf v n) ↔ p + n ≤ s.bitlen.toNat ∧ s.fieldAt p n = v % 2 ^ n := by
  induction n generalizing p with
  | zero => simp [bitsOf, holdsBits_nil, State.fieldAt, Nat.mod_one]
  | succ n ih =>
    have hfield := fieldAt_lt (s := s) (p + 1) n
    have hmod := Nat.mod_lt v (Nat.two_pow_pos n)
    rw [bitsOf, holdsBits_cons, ih, fieldAt_succ_eq_first, Nat.mod_pow_succ, ← Nat.toNat_testBit,
      show p + 1 + n = p + (n + 1) by omega]
    cases s.bitAt p <;> cases v.testBit n <;> simp <;> omega

theorem holdsBits_bitsOf_iff {p v n : Nat} (hv : v < 2 ^ n) :
    s.holdsBits p (bitsOf v n) ↔ p + n ≤ s.bitlen.toNat ∧ s.fieldAt p n = v := by
  rw [holdsBits_bitsOf, Nat.mod_eq_of_lt hv]

/-- The first `k` of the `n` bits of a number are the bits of its upper part. -/
theorem take_bitsOf {v n k : Nat} (hk : k ≤ n) : (bitsOf v n).take k = bitsOf (v >>> (n - k)) k := by
  induction n generalizing k with
  | zero => rw [Nat.le_zero.1 hk]; rfl
  | succ n ih =>
    cases k with
    | zero => rfl
    | succ k =>
      rw [bitsOf, bitsOf, List.take_succ_cons, ih (by omega), Nat.testBit_shiftRight,
        show n + 1 - (k + 1) = n - k by omega, show n - k + k = n by omega]

/-! ### RDBITS -/

/-- Settles O40: ReadBits answers the field at the cursor or reads nothing. -/
theorem rdbitsReadsField : Obligations.RdbitsReadsField := by
  intro s n _
  rw [exec_rdbits]
  exact ⟨command_read_of_closed,
    fun hs hn => command_read_of_bad_operand hs (by simpa using hn),
    fun hs hn hend => command_read_of_raise (e := .truncated) hs (by simpa using hn) (readBits_of_lt hend),
    fun hs hn hend => ⟨command_read_of_ok hs (by simpa using hn) (readBits_of_le hend), fieldAt_lt _ _⟩⟩

/-! ### RDUNARY -/

section
variable {stop : Bool} {pos : Nat}

theorem readUnaryFrom_of_stop {left count : Nat} (h : pos < s.bitlen.toNat) (hb : s.bitAt pos = stop) :
    readUnaryFrom s stop (left + 1) count pos = .ok (count, pos + 1) := by
  rw [readUnaryFrom, bitM_bind_of_ok (getBit_of_lt h), if_pos hb]
  rfl

theorem readUnaryFrom_of_not_stop {left count : Nat} (h : pos < s.bitlen.toNat) (hb : s.bitAt pos = !stop) :
    readUnaryFrom s stop (left + 1) count pos = readUnaryFrom s stop left (count + 1) (pos + 1) := by
  rw [readUnaryFrom, bitM_bind_of_ok (getBit_of_lt h), if_neg (by simp [hb])]

/-- ReadUnary counts the bits that are no stop bit. -/
theorem readUnaryFrom_add {k left count : Nat} (hb : ∀ j < k, s.bitAt (pos + j) = !stop)
    (hend : pos + k ≤ s.bitlen.toNat) :
    readUnaryFrom s stop (left + k) count pos = readUnaryFrom s stop left (count + k) (pos + k) := by
  induction k generalizing count pos with
  | zero => rfl
  | succ k ih =>
    have hrest (j : Nat) (hj : j < k) : s.bitAt (pos + 1 + j) = !stop := by
      have := hb (j + 1) (by omega)
      rwa [show pos + 1 + j = pos + (j + 1) by omega]
    calc readUnaryFrom s stop (left + k + 1) count pos
        = readUnaryFrom s stop (left + k) (count + 1) (pos + 1) :=
          readUnaryFrom_of_not_stop (by omega) (hb 0 (by omega))
      _ = readUnaryFrom s stop left (count + 1 + k) (pos + 1 + k) := ih hrest (by omega)
      _ = readUnaryFrom s stop left (count + (k + 1)) (pos + (k + 1)) := by
        rw [show count + 1 + k = count + (k + 1) by omega, show pos + 1 + k = pos + (k + 1) by omega]

theorem readUnary_of_stop {k maxLen : Nat} (hk : k < maxLen) (hb : ∀ j < k, s.bitAt (pos + j) = !stop)
    (hend : pos + k < s.bitlen.toNat) (hstop : s.bitAt (pos + k) = stop) :
    readUnary s stop maxLen pos = .ok (k, pos + k + 1) := by
  obtain ⟨left, rfl⟩ : ∃ left, maxLen = left + 1 + k := ⟨maxLen - k - 1, by omega⟩
  rw [readUnary, readUnaryFrom_add hb hend.le, readUnaryFrom_of_stop hend hstop, Nat.zero_add]

theorem readUnary_of_no_stop {maxLen : Nat} (hb : ∀ j < maxLen, s.bitAt (pos + j) = !stop)
    (hend : pos + maxLen ≤ s.bitlen.toNat) : readUnary s stop maxLen pos = .ok (maxLen, pos + maxLen) := by
  have hskip := readUnaryFrom_add (left := 0) (count := 0) hb hend
  rw [Nat.zero_add] at hskip
  exact hskip

theorem readUnary_of_end {k maxLen : Nat} (hk : k < maxLen) (hb : ∀ j < k, s.bitAt (pos + j) = !stop)
    (hend : pos + k = s.bitlen.toNat) : readUnary s stop maxLen pos = raise .truncated := by
  obtain ⟨left, rfl⟩ : ∃ left, maxLen = left + 1 + k := ⟨maxLen - k - 1, by omega⟩
  rw [readUnary, readUnaryFrom_add hb hend.le]
  exact bitM_bind_of_raise (getBit_of_le hend.ge)

end

/-- Settles O41: ReadUnary passes over the bits before the stop bit, then stops at it, at MAXLEN or at the end. -/
theorem rdunaryCounts : Obligations.RdunaryCounts := by
  intro s stop maxLen _ p
  rw [exec_rdunary]
  exact ⟨command_read_of_closed,
    fun k hk hs hb hend hstop => command_read_of_ok hs rfl (readUnary_of_stop hk hb hend hstop),
    fun hs hb hend => command_read_of_ok hs rfl (readUnary_of_no_stop hb hend),
    fun k hk hs hb hend => command_read_of_raise (e := .truncated) hs rfl (readUnary_of_end hk hb hend)⟩

end Sys2Proof.Proofs

/-! RDVLC (41_bitreader.md R193, R197). A codeword at the cursor as an equation on the field there; at most one codeword
of a legal table begins a string of bits; what the loop of ReadVLC passes over and how its next turn ends. -/

namespace Sys2Proof.Proofs

open Sys2Proof Sys2Proof.Machine Sys2Proof.Laws Sys2Proof.Config

variable {s : State} {tab : List VlcEntry} {e e' : VlcEntry}

/-! ### Legal tables -/

theorem codeExtends_iff {bits len : Nat} :
    codeExtends e bits len = true ↔ len ≤ e.len ∧ e.code >>> (e.len - len) = bits := by
  simp [codeExtends]

theorem vlcLegal_entry (hl : vlcLegal tab = true) (he : e ∈ tab) : 0 < e.len ∧ e.code < 2 ^ e.len := by
  simp only [vlcLegal, Bool.and_eq_true, List.all_eq_true, decide_eq_true_eq] at hl
  exact (hl.1 e he).1

/-- No codeword of a legal table begins another (00_scope.md R20). -/
theorem eq_of_codeExtends (hl : vlcLegal tab = true) (he : e ∈ tab) (he' : e' ∈ tab)
    (hx : codeExtends e e'.code e'.len = true) : e = e' := by
  simp only [vlcLegal, Bool.and_eq_true, decide_eq_true_eq] at hl
  obtain ⟨-, hpair⟩ := hl
  by_contra hne
  have hfree := @List.Pairwise.forall _ _ _ ⟨fun _ _ h => h.symm⟩ hpair e he e' he' hne
  simp [hx] at hfree

/-- A legal table holds a codeword once, so that a lookup answers its symbol. -/
theorem vlcLookup_of_mem (hl : vlcLegal tab = true) (he : e ∈ tab) : vlcLookup tab e.code e.len = some e.sym := by
  have hfind : tab.find? (fun x => x.len == e.len && x.code == e.code) = some e := by
    refine (find?_eq_some_iff_of_unique fun x hx y hy hpx hpy => ?_).2 ⟨he, by simp⟩
    simp only [Bool.and_eq_true, beq_iff_eq] at hpx hpy
    refine eq_of_codeExtends hl hx hy (codeExtends_iff.2 ⟨by omega, ?_⟩)
    rw [hpx.1, hpy.1, hpx.2, hpy.2, Nat.sub_self, Nat.shiftRight_zero]
  rw [vlcLookup, hfind]
  rfl

theorem vlcLookup_eq_none {bits len : Nat} :
    vlcLookup tab bits len = none ↔ ∀ e ∈ tab, ¬(e.len = len ∧ e.code = bits) := by
  simp [vlcLookup]

/-! ### Codewords at the cursor -/

/-- The range begins with the first `n` bits of a codeword where the codeword extends the field there. -/
theorem holdsBits_take_codeBits {p n : Nat} (hcode : e.code < 2 ^ e.len) (hn : n ≤ e.len) :
    s.holdsBits p ((codeBits e).take n) ↔ p + n ≤ s.bitlen.toNat ∧ codeExtends e (s.fieldAt p n) n = true := by
  have hupper : e.code >>> (e.len - n) < 2 ^ n := by
    rw [Nat.shiftRight_eq_div_pow]
    refine Nat.div_lt_of_lt_mul ?_
    rwa [← Nat.pow_add, Nat.sub_add_cancel hn]
  rw [codeBits, take_bitsOf hn, holdsBits_bitsOf_iff hupper, codeExtends_iff, eq_comm (a := s.fieldAt p n)]
  simp [hn]

theorem holdsBits_codeBits {p : Nat} (hcode : e.code < 2 ^ e.len) :
    s.holdsBits p (codeBits e) ↔ p + e.len ≤ s.bitlen.toNat ∧ s.fieldAt p e.len = e.code :=
  holdsBits_bitsOf_iff hcode

/-- The first bits of a string of bits that begins with the first bits of a codeword begin that codeword. -/
theorem codeExtends_fieldAt_mono {p m n : Nat} (hcode : e.code < 2 ^ e.len) (hmn : m ≤ n)
    (hx : codeExtends e (s.fieldAt p n) n = true) (hend : p + n ≤ s.bitlen.toNat) :
    codeExtends e (s.fieldAt p m) m = true := by
  obtain ⟨hn, -⟩ := codeExtends_iff.1 hx
  have hheld := (holdsBits_take_codeBits hcode hn).2 ⟨hend, hx⟩
  rw [← List.take_append_drop m (List.take n (codeBits e)), holdsBits_append, List.take_take,
    Nat.min_eq_left hmn] at hheld
  obtain ⟨hfirst, -⟩ := hheld
  exact ((holdsBits_take_codeBits hcode (hmn.trans hn)).1 hfirst).2

/-- The `n` bits from `p` on begin a codeword and are none themselves. -/
def insideCode (s : State) (tab : List VlcEntry) (p n : Nat) : Prop :=
  vlcLookup tab (s.fieldAt p n) n = none ∧ tab.any (codeExtends · (s.fieldAt p n) n) = true

/-- Fewer bits than a codeword of a legal table are inside it. -/
theorem insideCode_of_codeExtends {p n : Nat} (hl : vlcLegal tab = true) (he : e ∈ tab) (hn : n < e.len)
    (hx : codeExtends e (s.fieldAt p n) n = true) : insideCode s tab p n := by
  refine ⟨vlcLookup_eq_none.2 ?_, List.any_eq_true.2 ⟨e, he, hx⟩⟩
  rintro e' he' ⟨hlen, hcode⟩
  rw [← hcode, ← hlen] at hx
  have hsame := eq_of_codeExtends hl he he' hx
  rw [hsame] at hn
  omega

/-! ### The loop of ReadVLC -/

section
variable {p n fuel : Nat}

theorem readVlcFrom_of_lookup {sym : Nat} (hend : p + n < s.bitlen.toNat)
    (hsym : vlcLookup tab (s.fieldAt p (n + 1)) (n + 1) = some sym) :
    readVlcFrom s tab (fuel + 1) (s.fieldAt p n) n (p + n) = .ok (sym, p + (n + 1)) := by
  rw [readVlcFrom, bitM_bind_of_ok (getBit_of_lt hend), ← fieldAt_succ, hsym]
  rfl

theorem readVlcFrom_of_insideCode (hend : p + n < s.bitlen.toNat) (hin : insideCode s tab p (n + 1)) :
    readVlcFrom s tab (fuel + 1) (s.fieldAt p n) n (p + n) =
      readVlcFrom s tab fuel (s.fieldAt p (n + 1)) (n + 1) (p + (n + 1)) := by
  obtain ⟨hnone, hany⟩ := hin
  rw [readVlcFrom, bitM_bind_of_ok (getBit_of_lt hend), ← fieldAt_succ, hnone]
  exact congrFun (if_pos hany) _

theorem readVlcFrom_of_malformed (hend : p + n < s.bitlen.toNat)
    (hany : tab.any (codeExtends · (s.fieldAt p (n + 1)) (n + 1)) = false) :
    readVlcFrom s tab (fuel + 1) (s.fieldAt p n) n (p + n) = raise .malformedCode := by
  have hnone : vlcLookup tab (s.fieldAt p (n + 1)) (n + 1) = none := by
    rw [vlcLookup_eq_none]
    rintro e he ⟨hlen, hcode⟩
    refine List.any_eq_false.1 hany e he (codeExtends_iff.2 ⟨hlen.ge, ?_⟩)
    rw [hlen, hcode, Nat.sub_self, Nat.shiftRight_zero]
  rw [readVlcFrom, bitM_bind_of_ok (getBit_of_lt hend), ← fieldAt_succ, hnone]
  exact congrFun (if_neg (by simp [hany])) _

/-- ReadVLC passes over bits inside a codeword. -/
theorem readVlcFrom_add (hend : p + n ≤ s.bitlen.toNat) (hin : ∀ j < n, insideCode s tab p (j + 1)) :
    readVlcFrom s tab (fuel + n) 0 0 p = readVlcFrom s tab fuel (s.fieldAt p n) n (p + n) := by
  induction n generalizing fuel with
  | zero => rfl
  | succ n ih =>
    rw [show fuel + (n + 1) = fuel + 1 + n by omega, ih (by omega) fun j hj => hin j (by omega)]
    exact readVlcFrom_of_insideCode (by omega) (hin n (by omega))

end

/-! ### ReadVLC -/

section
variable {p n : Nat}

theorem readVlcFrom_of_codeword (hl : vlcLegal tab = true) (he : e ∈ tab) (hheld : s.holdsBits p (codeBits e)) :
    readVlcFrom s tab (s.bitFuel p) 0 0 p = .ok (e.sym, p + e.len) := by
  obtain ⟨hpos, hcode⟩ := vlcLegal_entry hl he
  obtain ⟨hend, hfield⟩ := (holdsBits_codeBits hcode).1 hheld
  obtain ⟨n, hn⟩ : ∃ n, e.len = n + 1 := ⟨e.len - 1, by omega⟩
  obtain ⟨fuel, hfuel⟩ : ∃ fuel, s.bitFuel p = fuel + 1 + n :=
    ⟨s.bitlen.toNat - p - n, by simp only [State.bitFuel]; omega⟩
  have hin (j : Nat) (hj : j < n) : insideCode s tab p (j + 1) := by
    refine insideCode_of_codeExtends hl he (by omega) (codeExtends_fieldAt_mono hcode (n := e.len) (by omega) ?_ hend)
    simp [codeExtends_iff, hfield]
  rw [hfuel, readVlcFrom_add (by omega) hin, hn]
  refine readVlcFrom_of_lookup (by omega) ?_
  rw [← hn, hfield, vlcLookup_of_mem hl he]

theorem readVlcFrom_of_first_malformed (hend : p + n < s.bitlen.toNat) (hin : ∀ j < n, insideCode s tab p (j + 1))
    (hany : tab.any (codeExtends · (s.fieldAt p (n + 1)) (n + 1)) = false) :
    readVlcFrom s tab (s.bitFuel p) 0 0 p = raise .malformedCode := by
  obtain ⟨fuel, hfuel⟩ : ∃ fuel, s.bitFuel p = fuel + 1 + n :=
    ⟨s.bitlen.toNat - p - n, by simp only [State.bitFuel]; omega⟩
  rw [hfuel, readVlcFrom_add hend.le hin]
  exact readVlcFrom_of_malformed hend hany

/-- Bits that begin no codeword and hold none have a first bit that makes them so: the least such count ends the loop. -/
theorem readVlcFrom_of_malformedAt (hl : vlcLegal tab = true) (hmal : s.malformedAt tab p) :
    readVlcFrom s tab (s.bitFuel p) 0 0 p = raise .malformedCode := by
  obtain ⟨n, hpos, hend, hcodes, hprefixes⟩ := hmal
  have hlast : tab.any (codeExtends · (s.fieldAt p (n - 1 + 1)) (n - 1 + 1)) = false := by
    rw [Nat.sub_add_cancel hpos]
    refine List.any_eq_false.2 fun e he hx => ?_
    obtain ⟨-, hcode⟩ := vlcLegal_entry hl he
    obtain ⟨hn, -⟩ := codeExtends_iff.1 hx
    exact hprefixes e he hn ((holdsBits_take_codeBits hcode hn).2 ⟨hend, hx⟩)
  have hex : ∃ m, tab.any (codeExtends · (s.fieldAt p (m + 1)) (m + 1)) = false := ⟨n - 1, hlast⟩
  have hfirst : Nat.find hex ≤ n - 1 := Nat.find_min' hex hlast
  refine readVlcFrom_of_first_malformed (by omega) (fun j hj => ⟨?_, ?_⟩) (Nat.find_spec hex)
  · rw [vlcLookup_eq_none]
    rintro e he ⟨hlen, hfield⟩
    obtain ⟨-, hcode⟩ := vlcLegal_entry hl he
    exact hcodes e he (by omega) ((holdsBits_codeBits hcode).2 ⟨by omega, by rw [hlen, hfield]⟩)
  · simpa using Nat.find_min hex hj

theorem readVlcFrom_of_end (hp : p ≤ s.bitlen.toNat)
    (hin : ∀ j < s.bitlen.toNat - p, insideCode s tab p (j + 1)) :
    readVlcFrom s tab (s.bitFuel p) 0 0 p = raise .truncated := by
  rw [State.bitFuel, Nat.add_comm, readVlcFrom_add (by omega) hin]
  exact bitM_bind_of_raise (getBit_of_le (by omega))

/-- A range that ends at the cursor or inside a codeword holds no bit outside that codeword. -/
theorem readVlcFrom_of_truncatedAt (hl : vlcLegal tab = true) (hp : p ≤ s.bitlen.toNat)
    (htrunc : s.truncatedAt tab p) : readVlcFrom s tab (s.bitFuel p) 0 0 p = raise .truncated := by
  refine readVlcFrom_of_end hp fun j hj => ?_
  rcases htrunc with hnone | ⟨e, he, hlen, hheld⟩
  · omega
  · obtain ⟨-, hcode⟩ := vlcLegal_entry hl he
    obtain ⟨hend, hx⟩ := (holdsBits_take_codeBits hcode (by omega)).1 hheld
    exact insideCode_of_codeExtends hl he (by omega) (codeExtends_fieldAt_mono hcode (by omega) hx hend)

theorem readVlc_of_none {t : Nat} (ht : s.cfg.vlcTable t = none) : readVlc s t p = raise .illegalCommand := by
  simp only [readVlc, ht]

theorem readVlc_of_legal {t : Nat} (ht : s.cfg.vlcTable t = some tab) (hl : vlcLegal tab = true) :
    readVlc s t p = readVlcFrom s tab (s.bitFuel p) 0 0 p := by
  simp only [readVlc, ht, hl, if_true]

end

/-- Settles O42: with a legal table ReadVLC is its loop, and each kind of bits at the cursor ends the loop its way. -/
theorem rdvlcDecodesCodeword : Obligations.RdvlcDecodesCodeword := by
  intro s t hcur p
  rw [exec_rdvlc]
  refine ⟨command_read_of_closed,
    fun hs ht => command_read_of_raise (e := .illegalCommand) hs rfl (readVlc_of_none ht), fun tab hs ht hl => ?_⟩
  have hread : readVlc s t.toNat p = readVlcFrom s tab (s.bitFuel p) 0 0 p := readVlc_of_legal ht hl
  have htruncated (h : s.truncatedAt tab p) : s.command [] (readCommand true fun s => readVlc s t.toNat) =
      .next (s.failedWith 1) :=
    command_read_of_raise (e := .truncated) hs rfl (hread.trans (readVlcFrom_of_truncatedAt hl hcur h))
  refine ⟨fun e he hheld => ?_, fun n hpos hend hcodes hprefixes => ?_, fun hend => htruncated (.inl hend),
    fun e he hend hheld => htruncated (.inr ⟨e, he, hend, hheld⟩)⟩
  · exact command_read_of_ok hs rfl (hread.trans (readVlcFrom_of_codeword hl he hheld))
  · exact command_read_of_raise (e := .malformedCode) hs rfl
      (hread.trans (readVlcFrom_of_malformedAt hl ⟨n, hpos, hend, hcodes, hprefixes⟩))

end Sys2Proof.Proofs

/-! RDESC (41_bitreader.md R194, R198). What one turn of the loop of ReadEsc makes of a chunk and its flag, and what the
loop makes of chunks that were each followed by a set flag. -/

namespace Sys2Proof.Proofs

open Sys2Proof Sys2Proof.Machine Sys2Proof.Laws Sys2Proof.Config

variable {s : State} {b c v max p fuel : Nat} {l : List Nat}

/-! ### The value after set flags -/

/-- The value `v` after the chunk `c` and a set flag (41_bitreader.md R198). -/
def escStep (b v c : Nat) : Nat := (v + c) * 2 ^ b + 2 ^ b

theorem escAfter_eq_foldl : escAfter b l = l.foldl (escStep b) 0 := rfl

theorem add_le_escStep : v + c ≤ escStep b v c :=
  (Nat.le_mul_of_pos_right _ (Nat.two_pow_pos b)).trans (Nat.le_add_right _ _)

theorem le_foldl_escStep : v ≤ l.foldl (escStep b) v := by
  induction l generalizing v with
  | nil => exact le_rfl
  | cons c l ih => exact (Nat.le_add_right v c).trans (add_le_escStep.trans ih)

theorem escAfter_append : escAfter b (l ++ [c]) = escStep b (escAfter b l) c := by
  rw [escAfter_eq_foldl, escAfter_eq_foldl, List.foldl_append]
  rfl

/-! ### The chunks as bits -/

theorem escBits_cons : escBits b (c :: l) = (bitsOf c b ++ [true]) ++ escBits b l := rfl

theorem escBits_append : escBits b (l ++ [c]) = escBits b l ++ (bitsOf c b ++ [true]) := by
  simp [escBits]

theorem length_escBits : (escBits b l).length = l.length * (b + 1) := by
  induction l with
  | nil => simp [escBits]
  | cons c l ih =>
    rw [escBits_cons, List.length_append, ih, List.length_append, length_bitsOf, List.length_singleton,
      List.length_cons]
    ring

theorem holdsBits_chunk {flag : Bool} :
    s.holdsBits p (bitsOf c b ++ [flag]) ↔ s.holdsBits p (bitsOf c b) ∧ s.holdsBits (p + b) [flag] := by
  rw [holdsBits_append, length_bitsOf]

theorem holdsBits_escBits_append {l' : List Bool} :
    s.holdsBits p (escBits b l ++ l') ↔ s.holdsBits p (escBits b l) ∧ s.holdsBits (p + l.length * (b + 1)) l' := by
  rw [holdsBits_append, length_escBits]

theorem readBits_of_holdsBits (hc : c < 2 ^ b) (hheld : s.holdsBits p (bitsOf c b)) :
    readBits s b p = .ok (c, p + b) := by
  obtain ⟨hend, hfield⟩ := (holdsBits_bitsOf_iff hc).1 hheld
  rw [readBits_of_le hend, hfield]

theorem readBits_flag {flag : Bool} (hheld : s.holdsBits p [flag]) : readBits s 1 p = .ok (flag.toNat, p + 1) := by
  obtain ⟨hbit, hend⟩ := holdsBits_cons.1 hheld
  rw [readBits_of_le (holdsBits_nil.1 hend), fieldAt_succ_eq_first, hbit]
  simp [State.fieldAt]

/-! ### A turn of the loop of ReadEsc -/

theorem readEscFrom_of_no_chunk (hend : s.bitlen.toNat < p + b) :
    readEscFrom s b max (fuel + 1) v p = raise .truncated :=
  bitM_bind_of_raise (readBits_of_lt hend)

theorem readEscFrom_of_large_chunk (hc : c < 2 ^ b) (hheld : s.holdsBits p (bitsOf c b)) (hmax : max < v + c) :
    readEscFrom s b max (fuel + 1) v p = raise .outOfRange := by
  rw [readEscFrom, bitM_bind_of_ok (readBits_of_holdsBits hc hheld), if_pos hmax]
  rfl

/-- After a chunk within the maximum the turn goes by the flag. -/
theorem readEscFrom_of_chunk (hc : c < 2 ^ b) (hheld : s.holdsBits p (bitsOf c b)) (hmax : v + c ≤ max) :
    readEscFrom s b max (fuel + 1) v p =
      (readBits s 1 >>= fun more =>
        if more = 0 then pure (v + c)
        else if max < escStep b v c then BitM.stop .outOfRange
        else readEscFrom s b max fuel (escStep b v c)) (p + b) := by
  rw [readEscFrom, bitM_bind_of_ok (readBits_of_holdsBits hc hheld), if_neg (Nat.not_lt.2 hmax)]
  rfl

theorem readEscFrom_of_no_flag (hc : c < 2 ^ b) (hheld : s.holdsBits p (bitsOf c b)) (hmax : v + c ≤ max)
    (hend : s.bitlen.toNat = p + b) : readEscFrom s b max (fuel + 1) v p = raise .truncated := by
  rw [readEscFrom_of_chunk hc hheld hmax]
  exact bitM_bind_of_raise (readBits_of_lt (by omega))

theorem readEscFrom_of_clear_flag (hc : c < 2 ^ b) (hheld : s.holdsBits p (bitsOf c b ++ [false]))
    (hmax : v + c ≤ max) : readEscFrom s b max (fuel + 1) v p = .ok (v + c, p + (b + 1)) := by
  obtain ⟨hchunk, hflag⟩ := holdsBits_chunk.1 hheld
  rw [readEscFrom_of_chunk hc hchunk hmax, bitM_bind_of_ok (readBits_flag hflag)]
  rfl

theorem readEscFrom_of_large_step (hc : c < 2 ^ b) (hheld : s.holdsBits p (bitsOf c b ++ [true]))
    (hmax : v + c ≤ max) (hstep : max < escStep b v c) :
    readEscFrom s b max (fuel + 1) v p = raise .outOfRange := by
  obtain ⟨hchunk, hflag⟩ := holdsBits_chunk.1 hheld
  rw [readEscFrom_of_chunk hc hchunk hmax, bitM_bind_of_ok (readBits_flag hflag), if_neg (by decide), if_pos hstep]
  rfl

theorem readEscFrom_of_set_flag (hc : c < 2 ^ b) (hheld : s.holdsBits p (bitsOf c b ++ [true]))
    (hstep : escStep b v c ≤ max) :
    readEscFrom s b max (fuel + 1) v p = readEscFrom s b max fuel (escStep b v c) (p + (b + 1)) := by
  obtain ⟨hchunk, hflag⟩ := holdsBits_chunk.1 hheld
  rw [readEscFrom_of_chunk hc hchunk (add_le_escStep.trans hstep), bitM_bind_of_ok (readBits_flag hflag),
    if_neg (by decide), if_neg (Nat.not_lt.2 hstep)]
  rfl

/-! ### ReadEsc -/

/-- ReadEsc extends its value by every chunk that a set flag follows. -/
theorem readEscFrom_add (hl : ∀ x ∈ l, x < 2 ^ b) (hheld : s.holdsBits p (escBits b l))
    (hmax : l.foldl (escStep b) v ≤ max) :
    readEscFrom s b max (fuel + l.length) v p =
      readEscFrom s b max fuel (l.foldl (escStep b) v) (p + l.length * (b + 1)) := by
  induction l generalizing v p with
  | nil => simp
  | cons c l ih =>
    rw [escBits_cons, holdsBits_append, List.length_append, length_bitsOf, List.length_singleton] at hheld
    obtain ⟨hfirst, hrest⟩ := hheld
    rw [List.foldl_cons] at hmax ⊢
    calc readEscFrom s b max (fuel + l.length + 1) v p
        = readEscFrom s b max (fuel + l.length) (escStep b v c) (p + (b + 1)) :=
          readEscFrom_of_set_flag (hl c (by simp)) hfirst (le_foldl_escStep.trans hmax)
      _ = readEscFrom s b max fuel (l.foldl (escStep b) (escStep b v c)) (p + (b + 1) + l.length * (b + 1)) :=
          ih (fun x hx => hl x (by simp [hx])) hrest hmax
      _ = readEscFrom s b max fuel (l.foldl (escStep b) (escStep b v c)) (p + (c :: l).length * (b + 1)) := by
        rw [List.length_cons, Nat.add_mul, Nat.one_mul, Nat.add_comm (l.length * (b + 1)), Nat.add_assoc]

/-- The chunks with a set flag take fewer turns than ReadEsc has. -/
theorem readEsc_eq_turn (hl : ∀ x ∈ l, x < 2 ^ b) (hheld : s.holdsBits p (escBits b l)) (hmax : escAfter b l ≤ max) :
    ∃ fuel, readEsc s b max p = readEscFrom s b max (fuel + 1) (escAfter b l) (p + l.length * (b + 1)) := by
  have hlen : l.length ≤ l.length * (b + 1) := Nat.le_mul_of_pos_right _ (Nat.succ_pos b)
  have hend : p + l.length * (b + 1) ≤ s.bitlen.toNat := by
    obtain ⟨hend, -⟩ := hheld
    rwa [length_escBits] at hend
  refine ⟨s.bitlen.toNat - p - l.length, ?_⟩
  rw [readEsc, show s.bitFuel p = s.bitlen.toNat - p - l.length + 1 + l.length by simp only [State.bitFuel]; omega]
  exact readEscFrom_add hl hheld hmax

/-- Settles O43: after the chunks with a set flag one more turn decides. -/
theorem rdescReadsEscapedInteger : Obligations.RdescReadsEscapedInteger := by
  intro s base _ p b max
  rw [exec_rdesc]
  refine ⟨command_read_of_closed, fun hs hb => command_read_of_bad_operand hs ?_,
    fun l c hs hb1 hb16 hl hc => ?_⟩
  · simp only [Bool.and_eq_false_iff, decide_eq_false_iff_not]
    omega
  have hok : (decide (1 ≤ base.toNat) && decide (base.toNat ≤ 16)) = true := by
    simp only [Bool.and_eq_true, decide_eq_true_eq]
    exact ⟨hb1, hb16⟩
  refine ⟨fun hheld hmax => ?_, fun hheld hprev hmax => ?_, fun hheld hprev hmax => ?_, fun hheld hprev hend => ?_,
    fun hheld hmax hend => ?_⟩
  · obtain ⟨hchunks, hlast⟩ := holdsBits_escBits_append.1 hheld
    obtain ⟨fuel, hread⟩ := readEsc_eq_turn hl hchunks ((Nat.le_add_right _ _).trans hmax)
    rw [Nat.add_mul, Nat.one_mul, ← Nat.add_assoc]
    exact command_read_of_ok hs hok (hread.trans (readEscFrom_of_clear_flag hc hlast hmax))
  · obtain ⟨hchunks, hlast⟩ := holdsBits_escBits_append.1 hheld
    obtain ⟨fuel, hread⟩ := readEsc_eq_turn hl hchunks hprev
    exact command_read_of_raise (e := .outOfRange) hs hok (hread.trans (readEscFrom_of_large_chunk hc hlast hmax))
  · rw [escBits_append] at hheld
    rw [escAfter_append] at hmax
    obtain ⟨hchunks, hlast⟩ := holdsBits_escBits_append.1 hheld
    obtain ⟨fuel, hread⟩ := readEsc_eq_turn hl hchunks ((Nat.le_add_right _ _).trans hprev)
    exact command_read_of_raise (e := .outOfRange) hs hok
      (hread.trans (readEscFrom_of_large_step hc hlast hprev hmax))
  · obtain ⟨fuel, hread⟩ := readEsc_eq_turn hl hheld hprev
    exact command_read_of_raise (e := .truncated) hs hok (hread.trans (readEscFrom_of_no_chunk hend))
  · obtain ⟨hchunks, hlast⟩ := holdsBits_escBits_append.1 hheld
    obtain ⟨fuel, hread⟩ := readEsc_eq_turn hl hchunks ((Nat.le_add_right _ _).trans hmax)
    exact command_read_of_raise (e := .truncated) hs hok (hread.trans (readEscFrom_of_no_flag hc hlast hmax hend))

end Sys2Proof.Proofs

/-! Commands of one group (42_spectral.md R210 to R227). What writes of entries make of an array, when the opening checks
hold, and what a command that writes F[c] and the cursor leaves alone; then ARITH and DEQ, which read no bits. -/

namespace Sys2Proof.Proofs

open Sys2Proof Sys2Proof.Machine Sys2Proof.Laws Sys2Proof.Config

variable {s : State} {c : Fin 8} {g : Fin 16}

/-! ### Arrays of F[c] -/

section
variable {α : Type} {n i : Nat} {t : Tab α n} {l : List (Nat × α)}

theorem at?_setIfInBounds {j : Nat} {v : α} :
    Tab.at? (t.setIfInBounds j (some v)) i = if j = i ∧ i < n then some v else t.at? i := by
  unfold Tab.at?
  rw [Vector.getElem?_setIfInBounds]
  split_ifs <;> simp_all

theorem put_cons {e : Nat × α} : t.put (e :: l) = Tab.put (t.setIfInBounds e.1 (some e.2)) l := rfl

theorem at?_put_of_not_mem (h : ∀ v, (i, v) ∉ l) : (t.put l).at? i = t.at? i := by
  induction l generalizing t with
  | nil => rfl
  | cons e l ih =>
    have hne : ¬(e.1 = i ∧ i < n) := fun he => h e.2 (by simp [← he.1])
    rw [put_cons, ih fun v hv => h v (List.mem_cons_of_mem _ hv), at?_setIfInBounds, if_neg hne]

/-- An entry that is written, with one value alone, holds it. -/
theorem at?_put_of_mem {v : α} (hi : i < n) (hv : (i, v) ∈ l) (huniq : ∀ w, (i, w) ∈ l → w = v) :
    (t.put l).at? i = some v := by
  induction l generalizing t with
  | nil => cases hv
  | cons e l ih =>
    rw [put_cons]
    by_cases hlater : ∃ w, (i, w) ∈ l
    · obtain ⟨w, hw⟩ := hlater
      have hwv := huniq w (List.mem_cons_of_mem _ hw)
      exact ih (hwv ▸ hw) fun u hu => huniq u (List.mem_cons_of_mem _ hu)
    · rcases List.mem_cons.1 hv with rfl | hv
      · rw [at?_put_of_not_mem (not_exists.1 hlater), at?_setIfInBounds, if_pos ⟨rfl, hi⟩]
      · exact absurd ⟨v, hv⟩ hlater

/-- Writes whose value is a function of the index. -/
theorem at?_put_map {l : List Nat} {f : Nat → α} (hl : ∀ k ∈ l, k < n) :
    (t.put (l.map fun k => (k, f k))).at? i = if i ∈ l then some (f i) else t.at? i := by
  split
  · next h =>
    refine at?_put_of_mem (hl i h) (List.mem_map.2 ⟨i, h, rfl⟩) fun w hw => ?_
    obtain ⟨k, -, hk⟩ := List.mem_map.1 hw
    obtain ⟨rfl, rfl⟩ := Prod.mk.inj hk
    rfl
  · next h =>
    refine at?_put_of_not_mem fun w hw => h ?_
    obtain ⟨k, hmem, hk⟩ := List.mem_map.1 hw
    obtain ⟨rfl, -⟩ := Prod.mk.inj hk
    exact hmem

theorem mem_indexed {b : Nat} {l : List α} {v : α} :
    (i, v) ∈ indexed b l ↔ b ≤ i ∧ l[i - b]? = some v := by
  induction l generalizing b with
  | nil => simp [indexed]
  | cons x l ih =>
    rw [indexed, List.mem_cons, ih]
    rcases Nat.lt_trichotomy i b with h | rfl | h
    · simp only [Prod.mk.injEq]
      omega
    · simp only [Prod.mk.injEq, Nat.sub_self, List.getElem?_cons_zero, Option.some.injEq, le_refl, true_and]
      exact ⟨fun h => h.elim Eq.symm fun h => absurd h.1 (by omega), fun h => .inl h.symm⟩
    · rw [show i - b = i - (b + 1) + 1 by omega, List.getElem?_cons_succ]
      simp only [Prod.mk.injEq]
      constructor
      · rintro (⟨rfl, -⟩ | ⟨-, h'⟩)
        · omega
        · exact ⟨h.le, h'⟩
      · rintro ⟨-, h'⟩
        exact .inr ⟨h, h'⟩

/-- A run of entries from `b` on holds the list written to it. -/
theorem at?_put_indexed {b : Nat} {l : List α} (hl : b + l.length ≤ n) :
    (t.put (indexed b l)).at? i = if b ≤ i ∧ i < b + l.length then l[i - b]? else t.at? i := by
  split
  · next h =>
    have hlt : i - b < l.length := by omega
    rw [List.getElem?_eq_getElem hlt]
    refine at?_put_of_mem (by omega) (mem_indexed.2 ⟨h.1, List.getElem?_eq_getElem hlt⟩) fun w hw => ?_
    obtain ⟨-, hw⟩ := mem_indexed.1 hw
    rw [List.getElem?_eq_getElem hlt] at hw
    exact (Option.some.inj hw).symm
  · next h =>
    refine at?_put_of_not_mem fun w hw => h ?_
    obtain ⟨hb, hw⟩ := mem_indexed.1 hw
    have := (List.getElem?_eq_some_iff.1 hw).1
    omega

end

/-! ### The opening checks -/

theorem requireGroup_of_done {l : List Stage} (hs : s.running) (hg : g.val < (s.wAt c).ngroups)
    (hl : l.all (s.done c) = true) : s.requireGroup c g l = .ok () :=
  requireGroup_ok.2 ⟨hs.1, hg, hl⟩

theorem requireGroup_stopsOnlyWith (l : List Stage) : StopsOnlyWith .illegalCommand (s.requireGroup c g l) :=
  stopsOnlyWith_bind (stopsOnlyWith_require _ _) fun _ _ => stopsOnlyWith_bind (stopsOnlyWith_require _ _) fun _ _ =>
    stopsOnlyWith_require _ _

/-- The opening checks fail, with IllegalCommand, where the group or a stage is missing. -/
theorem requireGroup_of_missing {l : List Stage} (h : (s.wAt c).ngroups ≤ g.val ∨ l.all (s.done c) = false) :
    s.requireGroup c g l = raise .illegalCommand := by
  cases hr : s.requireGroup c g l with
  | error x => rw [requireGroup_stopsOnlyWith l x hr]; rfl
  | ok u =>
    obtain ⟨-, hg, hl⟩ := requireGroup_ok.1 hr
    rcases h with h | h
    · omega
    · simp [hl] at h

/-! ### How a command of one slot ends -/

section
variable {c : BitVec 4} {body : State → Except Stop State}

theorem command_of_body_ok {u : State} (hs : s.running) (hc : c.toNat < 8) (hb : body s = .ok u) :
    s.command [c] body = .next u.ended := by
  rw [command_eq_finish hc (failedFrame_of_running hs), hb]
  rfl

theorem command_of_body_raise {e : FatalError} (hs : s.running) (hc : c.toNat < 8) (hb : body s = raise e) :
    s.command [c] body = .next (s.failedWith e.code) := by
  rw [command_eq_finish hc (failedFrame_of_running hs), hb]
  rfl

end

/-- F[c] <- f and the stage `x`, BITPOS <- pos: how a command of a group changes the state. -/
def chanWritten (s : State) (c : Fin 8) (pos : Word) (f : ChanFrame) (x : Stage) : State :=
  ({ s with bitpos := pos }.setChan c f).markDone c x

section
variable {pos : Word} {f : ChanFrame} {x : Stage}

theorem chanWritten_chanAt : (chanWritten s c pos f x).ended.chanAt c = { f with done := f.done.add x } := by
  have h := chanAt_markDone ({ s with bitpos := pos }.setChan c f) c x
  rwa [chanAt_setChan] at h

theorem chanWritten_keeps_otherSlots : otherSlotsKept [c] s (chanWritten s c pos f x).ended := by
  intro d hd
  rw [List.mem_singleton] at hd
  refine ⟨rfl, ?_⟩
  exact (chanAt_markDone_other ({ s with bitpos := pos }.setChan c f) c d x hd).trans
    (chanAt_setChan_other { s with bitpos := pos } c d f hd)

theorem chanWritten_endsOn : endsOn [c] s (chanWritten s c pos f x).ended :=
  ⟨⟨hostSideKept_refl s, ⟨rfl, rfl, rfl, rfl, rfl⟩, chanWritten_keeps_otherSlots, rfl⟩, rfl⟩

theorem chanWritten_doneAdds (hf : f.done = (s.chanAt c).done) :
    doneAdds x (s.chanAt c).done ((chanWritten s c pos f x).ended.chanAt c).done := by
  rw [chanWritten_chanAt, ← hf]
  exact doneAdds_add x f.done

end

/-! ### The samples of a group -/

theorem lt_of_mem_groupSamples {y : ChannelState} {n k : Nat} (hw : ∀ w ∈ y.wins, w.off + w.len ≤ 2048)
    (hk : k ∈ y.groupSamples n) : k < 2048 := by
  obtain ⟨w, hmem, hk⟩ := List.mem_flatMap.1 hk
  have := hw w (List.mem_of_mem_filter hmem)
  have := List.mem_range'_1.1 hk
  omega

/-! ### ARITH -/

theorem exec_arith (c g : BitVec 4) (s : State) :
    exec (.arith c g) s = s.command [c] (arithBody (slotOf c) (groupOf g)) := rfl

/-- F[c] as ARITH leaves it (42_spectral.md R222). -/
def silenced (s : State) (c : Fin 8) (g : Fin 16) : ChanFrame :=
  let f := s.chanAt c
  let zeros := indexed (64 * g.val) (List.replicate ((s.wAt c).bands g) 0)
  { f with
    cb := Tab.put f.cb zeros
    maxMag := Tab.put f.maxMag zeros
    q := Tab.put f.q (((s.wAt c).groupSamples g).map (fun k => (k, 0)))
    done := (f.done.add (.sect g)).add (.spec g) }

/-- ARITH's state, less the end of the command. -/
def arithSkipped (s : State) (c : Fin 8) (g : Fin 16) : State :=
  ({ s with bitpos := s.bitpos + s.arg0 }.setChan c (silenced s c g)).takeWarning .residualCodingUnsupported

/-- Behind its opening checks ARITH checks the payload and answers its state. -/
theorem arithBody_eq (h : s.requireGroup c g [.layout] = .ok ()) :
    arithBody c g s = (require (decide (s.bitpos.toNat + s.arg0.toNat ≤ s.bitlen.toNat)) .truncated).map
      fun _ => arithSkipped s c g := by
  unfold arithBody
  rw [h]
  rfl

theorem arithBody_of_missing (h : s.requireGroup c g [.layout] = raise .illegalCommand) :
    arithBody c g s = raise .illegalCommand := by
  unfold arithBody
  rw [h]
  rfl

theorem arithSkipped_chanAt : (arithSkipped s c g).ended.chanAt c = silenced s c g :=
  chanAt_setChan { s with bitpos := s.bitpos + s.arg0 } c _

theorem arithSkipped_keeps_otherSlots : otherSlotsKept [c] s (arithSkipped s c g).ended := by
  intro d hd
  rw [List.mem_singleton] at hd
  exact ⟨rfl, chanAt_setChan_other { s with bitpos := s.bitpos + s.arg0 } c d _ hd⟩

theorem arithSkipped_status : (arithSkipped s c g).ended.status =
    { s.status with
      done := true, busy := false, warn := true, gap := true
      warncode := if s.status.warn then s.status.warncode else 17 } := by
  simp [arithSkipped, State.ended, Status.raiseWarning, Warning.code]
  rfl

theorem toNat_add_of_le {a b n : Word} (h : a.toNat + b.toNat ≤ n.toNat) : (a + b).toNat = a.toNat + b.toNat := by
  rw [BitVec.toNat_add, Nat.mod_eq_of_lt]
  exact h.trans_lt n.isLt

theorem silenced_done_has (z : Stage) : (silenced s c g).done.has z =
    ((s.chanAt c).done.has z || decide (z = .sect g) || decide (z = .spec g)) := by
  rw [← doneAdds_add (.sect g) (s.chanAt c).done z, ← doneAdds_add (.spec g) _ z]
  rfl

/-- The entries of a band array that ARITH sets to 0. -/
theorem at?_put_zeros {t : Tab Nat 1024} {ms : Nat} (hms : ms ≤ 64) (i : Nat) :
    (t.put (indexed (64 * g.val) (List.replicate ms 0))).at? i =
      if 64 * g.val ≤ i ∧ i < 64 * g.val + ms then some 0 else t.at? i := by
  rw [at?_put_indexed (by rw [List.length_replicate]; omega), List.length_replicate]
  refine if_ctx_congr Iff.rfl (fun h => ?_) fun _ => rfl
  rw [List.getElem?_replicate, if_pos (by omega)]

theorem layout_all : [Stage.layout].all (s.done c) = s.done c .layout := by simp

/-- Settles O48: the opening checks, then the payload's, and behind them one state. -/
theorem arithSkipsAndSilences : Obligations.ArithSkipsAndSilences := by
  intro s c g hs hc x y f ms
  rw [exec_arith]
  refine ⟨fun h => ?_, fun hg hl hend => ?_, fun hg hl hend hms hw => ?_⟩
  · have hmissing : s.requireGroup x (groupOf g) [.layout] = raise .illegalCommand :=
      requireGroup_of_missing (h.imp id (layout_all.trans ·))
    exact command_of_body_raise (e := .illegalCommand) hs hc (arithBody_of_missing hmissing)
  · have hopen : s.requireGroup x (groupOf g) [.layout] = .ok () := requireGroup_of_done hs hg (layout_all.trans hl)
    refine command_of_body_raise (e := .truncated) hs hc ?_
    rw [arithBody_eq hopen, require, if_neg (by simpa using hend)]
    rfl
  · have hopen : s.requireGroup x (groupOf g) [.layout] = .ok () := requireGroup_of_done hs hg (layout_all.trans hl)
    have hbody : arithBody x (groupOf g) s = .ok (arithSkipped s x (groupOf g)) := by
      rw [arithBody_eq hopen, require, if_pos (by simpa using hend)]
      rfl
    refine ⟨_, command_of_body_ok hs hc hbody, ⟨hostSideKept_refl s, ⟨rfl, rfl, rfl, rfl, rfl⟩,
      arithSkipped_keeps_otherSlots, rfl⟩, ⟨rfl, rfl, rfl⟩, rfl, arithSkipped_status, toNat_add_of_le hend, ?_⟩
    rw [arithSkipped_chanAt]
    exact ⟨rfl, silenced_done_has, at?_put_zeros hms, at?_put_zeros hms,
      fun _ => at?_put_map fun _ => lt_of_mem_groupSamples hw⟩

/-! ### DEQ -/

theorem exec_deq (c g : BitVec 4) (s : State) :
    exec (.deq c g) s = s.command [c] (deqBody (slotOf c) (groupOf g)) := rfl

theorem mapE_of_forall {α β : Type} {f : α → Except Stop β} {h : α → β} {l : List α} (hf : ∀ a ∈ l, f a = .ok (h a)) :
    mapE f l = .ok (l.map h) :=
  mapE_ok.2 (List.forall₂_map_right_iff.2 (List.forall₂_same.2 hf))

/-- The coefficient of sample `k`, where the values it is made from exist (42_spectral.md R226). -/
def coefficient (y : ChannelState) (f : ChanFrame) (k : Nat) : Real32 :=
  match y.mapAt k with
  | none => 0
  | some (h, b) =>
    match f.sf.at? (band h b), f.q.at? k with
    | some (some v), some q => dequantized q v
    | _, _ => 0

section
variable {y : ChannelState} {f : ChanFrame} {k h b : Nat}

theorem coefficient_of_no_band (hk : y.mapAt k = none) : coefficient y f k = 0 := by
  rw [coefficient, hk]

theorem coefficient_of_no_sf (hk : y.mapAt k = some (h, b)) (hsf : f.sf.at? (64 * h + b) = some none) :
    coefficient y f k = 0 := by
  simp only [coefficient, hk, band, hsf]

theorem coefficient_of_sf {v q : Int} (hk : y.mapAt k = some (h, b)) (hsf : f.sf.at? (64 * h + b) = some (some v))
    (hq : f.q.at? k = some q) : coefficient y f k = dequantized q v := by
  simp only [coefficient, hk, band, hsf, hq]

theorem coefOf_of_no_band (hk : y.mapAt k = none) : coefOf y f k = .ok (k, 0) := by
  rw [coefOf, hk]

theorem coefOf_of_no_sf (hk : y.mapAt k = some (h, b)) (hsf : f.sf.at? (64 * h + b) = some none) :
    coefOf y f k = .ok (k, 0) := by
  simp only [coefOf, hk, band, Tab.get, hsf]
  rfl

theorem coefOf_of_sf {v q : Int} (hk : y.mapAt k = some (h, b)) (hsf : f.sf.at? (64 * h + b) = some (some v))
    (hq : f.q.at? k = some q) : coefOf y f k = .ok (k, dequantized q v) := by
  simp only [coefOf, hk, band, Tab.get, hsf, hq]
  rfl

/-- A sample in no band, in a band without a scale factor, or with a scale factor and a value has a coefficient. -/
theorem coefOf_eq (hv : ∀ h b, y.mapAt k = some (h, b) → f.sf.at? (64 * h + b) = some none ∨
      ((∃ v, f.sf.at? (64 * h + b) = some (some v)) ∧ ∃ q, f.q.at? k = some q)) :
    coefOf y f k = .ok (k, coefficient y f k) := by
  cases hk : y.mapAt k with
  | none => rw [coefOf_of_no_band hk, coefficient_of_no_band hk]
  | some e =>
    obtain ⟨h, b⟩ := e
    rcases hv h b hk with hsf | ⟨⟨v, hsf⟩, q, hq⟩
    · rw [coefOf_of_no_sf hk hsf, coefficient_of_no_sf hk hsf]
    · rw [coefOf_of_sf hk hsf hq, coefficient_of_sf hk hsf hq]

end

/-- F[c] with the coefficients of group g, less the stage (42_spectral.md R226). -/
def scaledChan (s : State) (c : Fin 8) (g : Fin 16) : ChanFrame :=
  let f := s.chanAt c
  { f with coef := f.coef.put (((s.wAt c).groupSamples g).map fun k => (k, coefficient (s.wAt c) f k)) }

theorem scaledChan_coef (hw : ∀ w ∈ (s.wAt c).wins, w.off + w.len ≤ 2048) (k : Nat) :
    (scaledChan s c g).coef.at? k =
      if k ∈ (s.wAt c).groupSamples g then some (coefficient (s.wAt c) (s.chanAt c) k)
      else (s.chanAt c).coef.at? k :=
  at?_put_map fun _ => lt_of_mem_groupSamples hw

/-- Settles O49: every coefficient exists, and those of the group's samples are written. -/
theorem deqScalesCoefficients : Obligations.DeqScalesCoefficients := by
  intro s c g hs hc x y f hg hsf hw hvals
  have hcoefs : mapE (coefOf y f) (y.groupSamples g.toNat) =
      .ok ((y.groupSamples g.toNat).map fun k => (k, coefficient y f k)) :=
    mapE_of_forall fun k hk => coefOf_eq (hvals k hk)
  have hbody : deqBody x (groupOf g) s = .ok (chanWritten s x s.bitpos (scaledChan s x g.toFin) (.deq g.toFin)) :=
    deqBody_ok.2 ⟨hs.1, hg, hsf, _, hcoefs, rfl⟩
  rw [exec_deq]
  refine ⟨_, command_of_body_ok hs hc hbody, chanWritten_endsOn, ⟨rfl, rfl, rfl⟩, rfl, rfl, ?_,
    chanWritten_doneAdds rfl, ?_⟩ <;> rw [chanWritten_chanAt]
  · rfl
  · have hcoef := scaledChan_coef (g := g.toFin) hw
    refine ⟨fun k hk => (hcoef k).trans (if_neg hk), fun k hk => ?_⟩
    rw [(hcoef k).trans (if_pos hk)]
    exact ⟨fun hno => by rw [coefficient_of_no_band hno], fun h b hb =>
      ⟨fun hno => by rw [coefficient_of_no_sf hb hno], fun v q hv hq => by rw [coefficient_of_sf hb hv hq]; rfl⟩⟩

end Sys2Proof.Proofs

/-! SECT (42_spectral.md R210, R211). What the loop of a run length makes of all-ones chunks and of the chunk behind them;
what the loop over the sections makes of sections that fit the group, and how the section behind them ends it. -/

namespace Sys2Proof.Proofs

open Sys2Proof Sys2Proof.Machine Sys2Proof.Laws Sys2Proof.Config

variable {s : State} {w fuel pos len j b ms cb : Nat} {l : List (Nat × Nat)}

/-- What a computation answers after its value was put through `f`. -/
theorem bitM_bind_pure {α β : Type} {m : BitM α} {f : α → β} {p : Nat} :
    (m >>= fun a => (pure (f a) : BitM β)) p = (m p).map fun r => (f r.1, r.2) := by
  show (m p >>= fun r => (pure (f r.1) : BitM β) r.2) = _
  cases m p <;> rfl

/-! ### Run lengths -/

theorem bitsOf_all_ones (w : Nat) : bitsOf (2 ^ w - 1) w = List.replicate w true := by
  suffices h : ∀ n ≤ w, bitsOf (2 ^ w - 1) n = List.replicate n true from h w le_rfl
  intro n hn
  induction n with
  | zero => rfl
  | succ n ih =>
    rw [bitsOf, ih (by omega), Nat.testBit_two_pow_sub_one, decide_eq_true (show n < w from hn), List.replicate_succ]

theorem two_pow_pred_lt (w : Nat) : 2 ^ w - 1 < 2 ^ w := Nat.sub_lt (Nat.two_pow_pos w) Nat.one_pos

/-- Chunks of all ones only add to the run. -/
theorem readRun_add (hheld : s.holdsBits pos (List.replicate (w * j) true)) :
    readRun s w (fuel + j) len pos = readRun s w fuel (len + j * (2 ^ w - 1)) (pos + w * j) := by
  induction j generalizing len pos with
  | zero => simp
  | succ j ih =>
    rw [Nat.mul_succ, Nat.add_comm (w * j), List.replicate_add, holdsBits_append, List.length_replicate,
      ← bitsOf_all_ones w] at hheld
    obtain ⟨hchunk, hrest⟩ := hheld
    calc readRun s w (fuel + j + 1) len pos
        = readRun s w (fuel + j) (len + (2 ^ w - 1)) (pos + w) := by
          rw [readRun, bitM_bind_of_ok (readBits_of_holdsBits (two_pow_pred_lt w) hchunk), if_pos rfl]
      _ = readRun s w fuel (len + (2 ^ w - 1) + j * (2 ^ w - 1)) (pos + w + w * j) := ih hrest
      _ = readRun s w fuel (len + (j + 1) * (2 ^ w - 1)) (pos + w * (j + 1)) := by
        rw [Nat.mul_succ, Nat.succ_mul]
        congr 1 <;> omega

theorem readRun_of_last {inc : Nat} (hinc : inc < 2 ^ w - 1) (hheld : s.holdsBits pos (bitsOf inc w)) :
    readRun s w (fuel + 1) len pos = .ok (len + inc, pos + w) := by
  rw [readRun, bitM_bind_of_ok (readBits_of_holdsBits (hinc.trans (two_pow_pred_lt w)) hheld), if_neg hinc.ne]
  rfl

theorem readRun_of_end (hend : s.bitlen.toNat < pos + w) : readRun s w (fuel + 1) len pos = raise .truncated :=
  bitM_bind_of_raise (readBits_of_lt hend)

/-- The run length at the cursor (42_spectral.md R211). -/
def runLength (s : State) (w : Nat) : BitM Nat := fun pos => readRun s w (s.bitFuel pos) 0 pos

theorem length_runBits : (runBits w len).length = w * (len / (2 ^ w - 1)) + w := by
  simp [runBits, length_bitsOf]

/-- The chunks of all ones take fewer turns than the loop has. -/
theorem runLength_eq_turn (hw : 0 < w) (hheld : s.holdsBits pos (List.replicate (w * j) true)) :
    ∃ fuel, runLength s w pos = readRun s w (fuel + 1) (j * (2 ^ w - 1)) (pos + w * j) := by
  have hend : pos + w * j ≤ s.bitlen.toNat := by
    obtain ⟨hend, -⟩ := hheld
    rwa [List.length_replicate] at hend
  have hj : j ≤ w * j := Nat.le_mul_of_pos_left j hw
  refine ⟨s.bitlen.toNat - pos - j, ?_⟩
  rw [runLength, show s.bitFuel pos = s.bitlen.toNat - pos - j + 1 + j by simp only [State.bitFuel]; omega,
    readRun_add hheld, Nat.zero_add]

theorem runLength_of_holdsBits (hw : 0 < w) (hheld : s.holdsBits pos (runBits w len)) :
    runLength s w pos = .ok (len, pos + (runBits w len).length) := by
  have hpos : 0 < 2 ^ w - 1 := Nat.sub_pos_of_lt (Nat.one_lt_two_pow hw.ne')
  rw [runBits, holdsBits_append, List.length_replicate] at hheld
  obtain ⟨hones, hlast⟩ := hheld
  obtain ⟨fuel, hrun⟩ := runLength_eq_turn hw hones
  rw [hrun, readRun_of_last (Nat.mod_lt len hpos) hlast, Nat.div_add_mod', length_runBits, Nat.add_assoc]

theorem runLength_of_end (hw : 0 < w) (hheld : s.holdsBits pos (List.replicate (w * j) true))
    (hend : s.bitlen.toNat < pos + w * j + w) : runLength s w pos = raise .truncated := by
  obtain ⟨fuel, hrun⟩ := runLength_eq_turn hw hheld
  rw [hrun, readRun_of_end hend]

/-! ### One section -/

/-- A codebook a section may have (42_spectral.md R210). -/
def bookDefined (cb : Nat) : Prop := cb = 0 ∨ (cbDesc cb).isSome = true

theorem lt_of_bookDefined (h : bookDefined cb) : cb < 2 ^ cbBits := by
  rcases h with rfl | h
  · decide
  · unfold cbDesc at h
    split at h
    case h_12 => cases h
    all_goals decide

/-- With bands left, a turn of the loop begins with a codebook. -/
theorem readSections_turn (hb : b < ms) (hcb : cb < 2 ^ cbBits) (hheld : s.holdsBits pos (bitsOf cb cbBits)) :
    readSections s w ms (fuel + 1) b pos =
      (if cb ≠ 0 ∧ (cbDesc cb).isNone then BitM.stop .invalidBlockConfig
        else do
          let len ← runLength s w
          if ms < b + len then BitM.stop .invalidBlockConfig
          else do
            let rest ← readSections s w ms fuel (b + len)
            pure (List.replicate len cb ++ rest)) (pos + cbBits) := by
  rw [readSections, if_pos hb, bitM_bind_of_ok (readBits_of_holdsBits hcb hheld)]
  rfl

theorem readSections_of_no_book (hb : b < ms) (hend : s.bitlen.toNat < pos + cbBits) :
    readSections s w ms (fuel + 1) b pos = raise .truncated := by
  rw [readSections, if_pos hb]
  exact bitM_bind_of_raise (readBits_of_lt hend)

theorem readSections_of_undefined (hb : b < ms) (hcb : cb < 2 ^ cbBits) (hheld : s.holdsBits pos (bitsOf cb cbBits))
    (h0 : cb ≠ 0) (hnone : cbDesc cb = none) :
    readSections s w ms (fuel + 1) b pos = raise .invalidBlockConfig := by
  rw [readSections_turn hb hcb hheld, if_pos ⟨h0, by simp [hnone]⟩]
  rfl

/-- With a defined codebook the turn goes by the run length. -/
theorem readSections_of_book (hb : b < ms) (hcb : bookDefined cb) (hheld : s.holdsBits pos (bitsOf cb cbBits)) :
    readSections s w ms (fuel + 1) b pos =
      (runLength s w >>= fun len =>
        if ms < b + len then BitM.stop .invalidBlockConfig
        else readSections s w ms fuel (b + len) >>= fun rest => pure (List.replicate len cb ++ rest))
      (pos + cbBits) := by
  have hdefined : ¬(cb ≠ 0 ∧ (cbDesc cb).isNone = true) := by
    rintro ⟨h0, hnone⟩
    rcases hcb with h | h
    · exact h0 h
    · simp [Option.isNone_iff_eq_none.1 hnone] at h
  rw [readSections_turn hb (lt_of_bookDefined hcb) hheld, if_neg hdefined]

theorem readSections_of_no_run (hb : b < ms) (hcb : bookDefined cb) (hheld : s.holdsBits pos (bitsOf cb cbBits))
    (hrun : runLength s w (pos + cbBits) = raise .truncated) :
    readSections s w ms (fuel + 1) b pos = raise .truncated :=
  (readSections_of_book hb hcb hheld).trans (bitM_bind_of_raise hrun)

theorem sectionBits_cons : sectionBits w ((cb, len) :: l) = bitsOf cb cbBits ++ (runBits w len ++ sectionBits w l) := rfl

theorem length_sectionBits_cons :
    (sectionBits w ((cb, len) :: l)).length = cbBits + (runBits w len).length + (sectionBits w l).length := by
  rw [sectionBits_cons, List.length_append, length_bitsOf, List.length_append, Nat.add_assoc]

theorem holdsBits_sectionBits_cons : s.holdsBits pos (sectionBits w ((cb, len) :: l)) ↔
    s.holdsBits pos (bitsOf cb cbBits) ∧ s.holdsBits (pos + cbBits) (runBits w len) ∧
      s.holdsBits (pos + (cbBits + (runBits w len).length)) (sectionBits w l) := by
  rw [sectionBits_cons, holdsBits_append, length_bitsOf, holdsBits_append, Nat.add_assoc]

theorem readSections_of_past_end (hw : 0 < w) (hb : b < ms) (hcb : bookDefined cb)
    (hheld : s.holdsBits pos (sectionBits w [(cb, len)])) (hlen : ms < b + len) :
    readSections s w ms (fuel + 1) b pos = raise .invalidBlockConfig := by
  obtain ⟨hbook, hrun, -⟩ := holdsBits_sectionBits_cons.1 hheld
  rw [readSections_of_book hb hcb hbook, bitM_bind_of_ok (runLength_of_holdsBits hw hrun), if_pos hlen]
  rfl

theorem readSections_of_section (hw : 0 < w) (hb : b < ms) (hcb : bookDefined cb)
    (hbook : s.holdsBits pos (bitsOf cb cbBits)) (hrun : s.holdsBits (pos + cbBits) (runBits w len))
    (hlen : b + len ≤ ms) :
    readSections s w ms (fuel + 1) b pos =
      (readSections s w ms fuel (b + len) (pos + (cbBits + (runBits w len).length))).map
        fun r => (List.replicate len cb ++ r.1, r.2) := by
  rw [readSections_of_book hb hcb hbook, bitM_bind_of_ok (runLength_of_holdsBits hw hrun),
    if_neg (Nat.not_lt.2 hlen), bitM_bind_pure, Nat.add_assoc]

theorem readSections_of_covered (hb : ms ≤ b) : readSections s w ms (fuel + 1) b pos = .ok ([], pos) := by
  rw [readSections, if_neg (Nat.not_lt.2 hb)]
  rfl

/-! ### Sections in a row -/

/-- From band `b` on the sections begin before the group's `ms` bands are covered and end within them. -/
def sectionsFit (ms : Nat) : Nat → List (Nat × Nat) → Prop
  | _, [] => True
  | b, (_, len) :: l => b < ms ∧ b + len ≤ ms ∧ sectionsFit ms (b + len) l

theorem sectionsFit_of_lt (h : b + (l.map Prod.snd).sum < ms) : sectionsFit ms b l := by
  induction l generalizing b with
  | nil => trivial
  | cons e l ih =>
    rw [List.map_cons, List.sum_cons] at h
    exact ⟨by omega, by omega, ih (by omega)⟩

theorem le_total {e : Nat × Nat} (h : e ∈ l) : e.2 ≤ (l.map Prod.snd).sum :=
  List.single_le_sum (fun _ _ => Nat.zero_le _) _ (List.mem_map.2 ⟨e, h, rfl⟩)

theorem sectionsFit_of_last (h : b + (l.map Prod.snd).sum = ms) (hlast : ∀ e ∈ l.getLast?, 0 < e.2) :
    sectionsFit ms b l := by
  induction l generalizing b with
  | nil => trivial
  | cons e l ih =>
    have hpos : 0 < ((e :: l).map Prod.snd).sum := by
      have hmem := List.getLast_mem (List.cons_ne_nil e l)
      exact (hlast _ (List.getLast?_eq_some_getLast _)).trans_le (le_total hmem)
    rw [List.map_cons, List.sum_cons] at h hpos
    refine ⟨by omega, by omega, ih (by omega) fun x hx => hlast x ?_⟩
    rw [List.getLast?_cons, Option.mem_def.1 hx]
    rfl

/-- The codebook of each band of the sections. -/
def sectionBooks (l : List (Nat × Nat)) : List Nat := l.flatMap (fun e => List.replicate e.2 e.1)

theorem length_sectionBooks : (sectionBooks l).length = (l.map Prod.snd).sum := by
  simp [sectionBooks, List.length_flatMap]

theorem readSections_add (hw : 0 < w) (hfit : sectionsFit ms b l) (hdef : ∀ e ∈ l, bookDefined e.1)
    (hheld : s.holdsBits pos (sectionBits w l)) :
    readSections s w ms (fuel + l.length) b pos =
      (readSections s w ms fuel (b + (l.map Prod.snd).sum) (pos + (sectionBits w l).length)).map
        fun r => (sectionBooks l ++ r.1, r.2) := by
  induction l generalizing b pos with
  | nil =>
    simp only [List.length_nil, Nat.add_zero, List.map_nil, List.sum_nil, sectionBits, sectionBooks,
      List.flatMap_nil, List.nil_append, Prod.mk.eta]
    exact (congrFun Except.map_id _).symm
  | cons e l ih =>
    obtain ⟨cb, len⟩ := e
    obtain ⟨hb, hlen, hfit⟩ := hfit
    obtain ⟨hbook, hrun, hrest⟩ := holdsBits_sectionBits_cons.1 hheld
    rw [List.length_cons, ← Nat.add_assoc, readSections_of_section hw hb (hdef (cb, len) (by simp)) hbook hrun hlen,
      ih hfit (fun e he => hdef e (by simp [he])) hrest, length_sectionBits_cons, List.map_cons, List.sum_cons]
    simp only [Nat.add_assoc]
    cases readSections s w ms fuel (b + (len + (l.map Prod.snd).sum))
      (pos + (cbBits + ((runBits w len).length + (sectionBits w l).length))) with
    | error x => rfl
    | ok r => simp [Except.map, sectionBooks]

theorem length_le_sectionBits : l.length ≤ (sectionBits w l).length := by
  induction l with
  | nil => exact le_rfl
  | cons e l ih =>
    rw [length_sectionBits_cons, List.length_cons, cbBits]
    omega

/-- The sections of a group of `ms` bands at the cursor. -/
def groupSections (s : State) (w ms : Nat) : BitM (List Nat) := fun p => readSections s w ms (s.bitFuel p) 0 p

/-- Sections that fit take fewer turns than the loop has. -/
theorem groupSections_eq_turn (hw : 0 < w) (hfit : sectionsFit ms 0 l) (hdef : ∀ e ∈ l, bookDefined e.1)
    (hheld : s.holdsBits pos (sectionBits w l)) :
    ∃ fuel, groupSections s w ms pos =
      (readSections s w ms (fuel + 1) (l.map Prod.snd).sum (pos + (sectionBits w l).length)).map
        fun r => (sectionBooks l ++ r.1, r.2) := by
  have hlen := length_le_sectionBits (w := w) (l := l)
  obtain ⟨hend, -⟩ := id hheld
  refine ⟨s.bitlen.toNat - pos - l.length, ?_⟩
  rw [groupSections, show s.bitFuel pos = s.bitlen.toNat - pos - l.length + 1 + l.length by
    simp only [State.bitFuel]; omega, readSections_add hw hfit hdef hheld, Nat.zero_add]

theorem groupSections_of_covered (hw : 0 < w) (htotal : (l.map Prod.snd).sum = ms)
    (hlast : ∀ e ∈ l.getLast?, 0 < e.2) (hdef : ∀ e ∈ l, bookDefined e.1)
    (hheld : s.holdsBits pos (sectionBits w l)) :
    groupSections s w ms pos = .ok (sectionBooks l, pos + (sectionBits w l).length) := by
  have hfit : sectionsFit ms 0 l := sectionsFit_of_last (by rw [Nat.zero_add, htotal]) hlast
  obtain ⟨fuel, hread⟩ := groupSections_eq_turn hw hfit hdef hheld
  rw [hread, readSections_of_covered htotal.ge]
  exact congrArg (fun x => Except.ok (x, pos + (sectionBits w l).length)) (List.append_nil _)

/-- Behind sections that leave bands of the group, an error of the next section is the command's. -/
theorem groupSections_of_raise {e : FatalError} (hw : 0 < w) (htotal : (l.map Prod.snd).sum < ms)
    (hdef : ∀ e ∈ l, bookDefined e.1) (hheld : s.holdsBits pos (sectionBits w l))
    (hnext : ∀ fuel, readSections s w ms (fuel + 1) (l.map Prod.snd).sum (pos + (sectionBits w l).length) = raise e) :
    groupSections s w ms pos = raise e := by
  have hfit : sectionsFit ms 0 l := sectionsFit_of_lt (by rwa [Nat.zero_add])
  obtain ⟨fuel, hread⟩ := groupSections_eq_turn hw hfit hdef hheld
  rw [hread, hnext]
  rfl

/-! ### SECT -/

section
variable {c : Fin 8} {g : Fin 16}

theorem exec_sect (c g w : BitVec 4) (s : State) :
    exec (.sect c g w) s = s.command [c] (sectBody (slotOf c) (groupOf g) w.toNat) := rfl

theorem sectBody_of_missing (h : (s.wAt c).ngroups ≤ g.val) : sectBody c g w s = raise .illegalCommand := by
  unfold sectBody
  rw [requireGroup_of_missing (.inl h)]
  rfl

/-- LENBITS = 0 raises what a failed opening check raises. -/
theorem sectBody_of_no_lenBits : sectBody c g 0 s = raise .illegalCommand := by
  unfold sectBody
  cases h : s.requireGroup c g [.layout] with
  | error x => rw [requireGroup_stopsOnlyWith _ x h]; rfl
  | ok u => rfl

/-- F[c] with the codebooks of the bands of group g, less the stage (42_spectral.md R210). -/
def sectionedChan (s : State) (c : Fin 8) (g : Fin 16) (books : List Nat) : ChanFrame :=
  { s.chanAt c with cb := (s.chanAt c).cb.put (indexed (64 * g.val) books) }

/-- Behind its checks SECT reads the sections and answers its state. -/
theorem sectBody_eq (hopen : s.requireGroup c g [.layout] = .ok ()) (hw : w ≠ 0) :
    sectBody c g w s = (groupSections s w ((s.wAt c).bands g) s.bitpos.toNat).map fun r =>
      chanWritten s c (BitVec.ofNat 32 r.2) (sectionedChan s c g r.1) (.sect g) := by
  unfold sectBody
  rw [hopen, show (w != 0) = true from bne_iff_ne.2 hw]
  show (groupSections s w ((s.wAt c).bands g) s.bitpos.toNat >>= _) = _
  cases groupSections s w ((s.wAt c).bands g) s.bitpos.toNat <;> rfl

end

theorem toNat_ofNat_of_le {n : Nat} {v : Word} (h : n ≤ v.toNat) : (BitVec.ofNat 32 n).toNat = n := by
  rw [BitVec.toNat_ofNat, Nat.mod_eq_of_lt (h.trans_lt v.isLt)]

/-- Settles O44: behind its checks the command is the loop over the sections, and each kind of bits ends the loop its
way. -/
theorem sectReadsSections : Obligations.SectReadsSections := by
  intro s c g w secs hs hc x p ms total bits
  rw [exec_sect]
  refine ⟨fun h => command_of_body_raise (e := .illegalCommand) hs hc (sectBody_of_missing h), fun h => ?_,
    fun hg hl hw hms hcur hdef => ?_⟩
  · subst h
    exact command_of_body_raise (e := .illegalCommand) hs hc sectBody_of_no_lenBits
  have hw0 : w.toNat ≠ 0 := fun h => hw (BitVec.eq_of_toNat_eq h)
  have hwpos : 0 < w.toNat := Nat.pos_of_ne_zero hw0
  have hbody := sectBody_eq (w := w.toNat) (requireGroup_of_done (g := groupOf g) hs hg (layout_all.trans hl)) hw0
  have hraise {e : FatalError} (h : groupSections s w.toNat ms p = raise e) :
      s.command [c] (sectBody x (groupOf g) w.toNat) = .next (s.failedWith e.code) :=
    command_of_body_raise hs hc (hbody.trans (congrArg _ h))
  refine ⟨fun hheld htotal hlast => ?_, fun hlt cb hcb => ⟨fun hheld h0 hnone => ?_, fun len hheld hcbdef hlen => ?_,
    fun hheld hend => ?_, fun j hheld hcbdef hend => ?_⟩⟩
  · have hread := groupSections_of_covered hwpos htotal hlast hdef hheld
    have hlen : (sectionBooks secs).length = ms := length_sectionBooks.trans htotal
    have hcb (i : Nat) : (sectionedChan s x g.toFin (sectionBooks secs)).cb.at? i =
        if 64 * g.toNat ≤ i ∧ i < 64 * g.toNat + ms then (sectionBooks secs)[i - 64 * g.toNat]?
        else (s.chanAt x).cb.at? i := by
      rw [← hlen]
      exact at?_put_indexed (by have := g.isLt; simp only [BitVec.val_toFin]; omega)
    refine ⟨_, command_of_body_ok hs hc (hbody.trans (congrArg _ hread)), chanWritten_endsOn, ⟨rfl, rfl, rfl⟩, rfl,
      toNat_ofNat_of_le hheld.1, ?_, chanWritten_doneAdds rfl, ?_⟩ <;> rw [chanWritten_chanAt]
    · rfl
    · refine ⟨fun k hk => (hcb _).trans ?_, fun i hi => (hcb i).trans (if_neg hi)⟩
      rw [if_pos ⟨by omega, by omega⟩, Nat.add_sub_cancel_left]
      rfl
  · obtain ⟨hsecs, hbook⟩ := holdsBits_append.1 hheld
    exact hraise (e := .invalidBlockConfig)
      (groupSections_of_raise hwpos hlt hdef hsecs fun _ => readSections_of_undefined hlt hcb hbook h0 hnone)
  · obtain ⟨hsecs, hsection⟩ := holdsBits_append.1 hheld
    exact hraise (e := .invalidBlockConfig)
      (groupSections_of_raise hwpos hlt hdef hsecs fun _ => readSections_of_past_end hwpos hlt hcbdef hsection hlen)
  · exact hraise (e := .truncated)
      (groupSections_of_raise hwpos hlt hdef hheld fun _ => readSections_of_no_book hlt hend)
  · obtain ⟨hsecs, hsection⟩ := holdsBits_append.1 hheld
    rw [holdsBits_append, length_bitsOf] at hsection
    obtain ⟨hbook, hones⟩ := hsection
    exact hraise (e := .truncated)
      (groupSections_of_raise hwpos hlt hdef hsecs fun _ =>
        readSections_of_no_run hlt hcbdef hbook (runLength_of_end hwpos hones hend))

end Sys2Proof.Proofs

/-! DecodeTuple (42_spectral.md R215, R216). A computation spells a value when certain bits make it answer that value and
a range that ends inside them makes it raise Truncated; spelling goes through sequences, so that a tuple's bits are the
bits of its codeword, its signs and its escapes. -/

namespace Sys2Proof.Proofs

open Sys2Proof Sys2Proof.Machine Sys2Proof.Laws Sys2Proof.Config

variable {s : State} {d : CbDesc} {tab : List VlcEntry} {e : VlcEntry} {table cb p : Nat} {v : List Int} {x : Int}

/-! ### Spelling -/

/-- The bits `l` spell `a` for `m`: where the range holds them `m` answers `a` and the cursor behind them, where it ends
inside them `m` raises Truncated. -/
def Spells {α : Type} (s : State) (m : BitM α) (l : List Bool) (a : α) : Prop :=
  ∀ p, (s.holdsBits p l → m p = .ok (a, p + l.length)) ∧
    ∀ k < l.length, s.bitlen.toNat = p + k → s.holdsBits p (l.take k) → m p = raise .truncated

section
variable {α β : Type} {m : BitM α} {f : α → BitM β} {l l' : List Bool} {a : α} {b : β}

theorem spells_pure : Spells s (pure a) [] a := fun _ => ⟨fun _ => rfl, fun _ hk => absurd hk (Nat.not_lt_zero _)⟩

theorem spells_bind (hm : Spells s m l a) (hf : Spells s (f a) l' b) : Spells s (m >>= f) (l ++ l') b := by
  intro p
  constructor
  · intro hheld
    obtain ⟨hfirst, hrest⟩ := holdsBits_append.1 hheld
    rw [bitM_bind_of_ok ((hm p).1 hfirst), (hf _).1 hrest, List.length_append, Nat.add_assoc]
  · intro k hk hend hheld
    rw [List.length_append] at hk
    rcases Nat.lt_or_ge k l.length with hin | hin
    · rw [List.take_append_of_le_length hin.le] at hheld
      exact bitM_bind_of_raise ((hm p).2 k hin hend hheld)
    · rw [List.take_append, List.take_of_length_le hin] at hheld
      obtain ⟨hfirst, hrest⟩ := holdsBits_append.1 hheld
      rw [bitM_bind_of_ok ((hm p).1 hfirst)]
      exact (hf _).2 (k - l.length) (by omega) (by omega) hrest

theorem spells_map {g : α → β} (hm : Spells s m l a) : Spells s (m >>= fun a => pure (g a)) l (g a) := by
  have h := spells_bind (f := fun a => pure (g a)) hm spells_pure
  rwa [List.append_nil] at h

end

theorem spells_readBits {n w : Nat} (hw : w < 2 ^ n) : Spells s (readBits s n) (bitsOf w n) w := by
  intro p
  rw [length_bitsOf]
  exact ⟨readBits_of_holdsBits hw, fun k hk hend _ => readBits_of_lt (by omega)⟩

theorem spells_flag (b : Bool) : Spells s (readBits s 1) [b] b.toNat := by
  have h : bitsOf b.toNat 1 = [b] := by cases b <;> rfl
  exact h ▸ spells_readBits (Bool.toNat_lt b)

theorem spells_readVlc (ht : s.cfg.vlcTable table = some tab) (hl : vlcLegal tab = true) (he : e ∈ tab) :
    Spells s (readVlc s table) (codeBits e) e.sym := by
  intro p
  have hlen : (codeBits e).length = e.len := length_bitsOf _ _
  rw [readVlc_of_legal ht hl, hlen]
  refine ⟨readVlcFrom_of_codeword hl he, fun k hk hend hheld => readVlcFrom_of_truncatedAt hl (by omega) (.inr ?_)⟩
  exact ⟨e, he, by omega, by rwa [hend, Nat.add_sub_cancel_left]⟩

theorem holdsBits_replicate {n : Nat} {b : Bool} :
    s.holdsBits p (List.replicate n b) ↔ p + n ≤ s.bitlen.toNat ∧ ∀ j < n, s.bitAt (p + j) = b := by
  simp [State.holdsBits]

/-- A unary number below the limit of ReadUnary. -/
theorem spells_readUnary {n maxLen : Nat} (hn : n < maxLen) :
    Spells s (readUnary s false maxLen) (List.replicate n true ++ [false]) n := by
  intro p
  rw [List.length_append, List.length_replicate, List.length_singleton]
  constructor
  · intro hheld
    rw [holdsBits_append, List.length_replicate, holdsBits_replicate, holdsBits_cons, holdsBits_nil] at hheld
    obtain ⟨⟨-, hones⟩, hstop, hend⟩ := hheld
    exact readUnary_of_stop hn hones hend hstop
  · intro k hk hend hheld
    rw [List.take_append_of_le_length (by rw [List.length_replicate]; omega), List.take_replicate,
      Nat.min_eq_left (by omega), holdsBits_replicate] at hheld
    obtain ⟨-, hones⟩ := hheld
    exact readUnary_of_end (by omega) hones hend.symm

/-! ### Digits -/

theorem digits_succ (n m k : Nat) : digits n m (k + 1) = digits (n / m) m k ++ [n % m] := by
  induction k with
  | zero => simp [digits]
  | succ k ih =>
    rw [digits, ih, digits, List.cons_append, Nat.div_div_eq_div_mul, ← Nat.pow_succ']

theorem undigits_append (m u : Nat) (l : List Nat) : undigits m (l ++ [u]) = undigits m l * m + u := by
  rw [undigits, List.foldl_append]
  rfl

/-- Digits below the base are read back from their number. -/
theorem digits_undigits {m : Nat} (l : List Nat) (hl : ∀ u ∈ l, u < m) : digits (undigits m l) m l.length = l := by
  induction l using List.reverseRecOn with
  | nil => rfl
  | append_singleton l u ih =>
    have hu : u < m := hl u (by simp)
    have hm : 0 < m := by omega
    rw [List.length_append, List.length_singleton, digits_succ, undigits_append, Nat.mul_add_mod', Nat.mod_eq_of_lt hu,
      Nat.mul_comm, Nat.mul_add_div hm, Nat.div_eq_of_lt hu, Nat.add_zero, ih fun w hw => hl w (by simp [hw])]

theorem undigits_lt {m : Nat} (l : List Nat) (hl : ∀ u ∈ l, u < m) : undigits m l < m ^ l.length := by
  induction l using List.reverseRecOn with
  | nil => exact Nat.one_pos
  | append_singleton l u ih =>
    have hu : u < m := hl u (by simp)
    have hlow := ih fun w hw => hl w (by simp [hw])
    rw [List.length_append, List.length_singleton, undigits_append, Nat.pow_succ]
    calc undigits m l * m + u
        < (undigits m l + 1) * m := by rw [Nat.succ_mul]; omega
      _ ≤ m ^ l.length * m := Nat.mul_le_mul_right m hlow

/-! ### Codebooks -/

theorem cbDesc_facts (h : cbDesc cb = some d) :
    0 < d.dim ∧ 0 < d.lav ∧ (d.esc = true → d.signed = false ∧ d.lav = 16) := by
  unfold cbDesc at h
  split at h <;> cases h <;> decide

theorem codes_iff : CbDesc.codes d v = true ↔ v.length = d.dim ∧
    ∀ x ∈ v, x.natAbs ≤ d.lav ∨ (d.esc = true ∧ d.signed = false ∧ d.lav = 16 ∧ x.natAbs < 2 ^ 13) := by
  simp [CbDesc.codes, and_assoc]

/-- Only an escape, which a signed codebook does not have, is beyond `lav`. -/
theorem natAbs_le_lav (hv : CbDesc.codes d v = true) (hno : d.signed = true ∨ d.esc = false) (hx : x ∈ v) :
    x.natAbs ≤ d.lav := by
  obtain ⟨-, hle⟩ := codes_iff.1 hv
  rcases hle x hx with hle | ⟨hesc, hsigned, -⟩
  · exact hle
  · simp [hesc, hsigned] at hno

/-- A value as its digit says it under an unsigned codebook. -/
def magnitude (lav : Nat) (x : Int) : Int := (min x.natAbs lav : Nat)

/-- A value behind its digit and its sign, before its escape: no more than `lav`. -/
def clipped (lav : Nat) (x : Int) : Int := if x < 0 then -magnitude lav x else magnitude lav x

theorem clipped_of_le {lav : Nat} (h : x.natAbs ≤ lav) : clipped lav x = x := by
  rw [clipped, magnitude, Nat.min_eq_left h]
  split <;> omega

theorem clipped_of_ge {lav : Nat} (h : lav ≤ x.natAbs) : clipped lav x = if x < 0 then -(lav : Int) else lav := by
  rw [clipped, magnitude, Nat.min_eq_right h]

theorem digitsOf_lt (hv : CbDesc.codes d v = true) : ∀ u ∈ CbDesc.digitsOf d v, u < CbDesc.base d := by
  intro u hu
  obtain ⟨x, hx, rfl⟩ := List.mem_map.1 hu
  cases hd : d.signed with
  | true =>
    have := natAbs_le_lav hv (.inl hd) hx
    simp only [CbDesc.base, hd, if_true]
    omega
  | false =>
    simp only [CbDesc.base, hd, Bool.false_eq_true, if_false]
    omega

theorem length_digitsOf (hv : CbDesc.codes d v = true) : (CbDesc.digitsOf d v).length = d.dim := by
  rw [CbDesc.digitsOf, List.length_map, (codes_iff.1 hv).1]

/-- The symbol of a tuple is in the codebook's range. -/
theorem undigits_digitsOf_lt (hv : CbDesc.codes d v = true) :
    undigits (CbDesc.base d) (CbDesc.digitsOf d v) < CbDesc.base d ^ d.dim :=
  length_digitsOf hv ▸ undigits_lt _ (digitsOf_lt hv)

/-- The digits of a tuple stand for its values, each but for its sign and its escape. -/
theorem values_undigits (hv : CbDesc.codes d v = true) :
    CbDesc.values d (undigits (CbDesc.base d) (CbDesc.digitsOf d v)) =
      v.map (fun x => if d.signed then x else magnitude d.lav x) := by
  have hread := digits_undigits _ (digitsOf_lt hv)
  rw [length_digitsOf hv] at hread
  rw [CbDesc.values, hread, CbDesc.digitsOf, List.map_map]
  refine List.map_congr_left fun x hx => ?_
  cases hd : d.signed with
  | true =>
    have := natAbs_le_lav hv (.inl hd) hx
    simp only [Function.comp_apply, if_true]
    omega
  | false => simp [magnitude]

/-! ### Signs -/

theorem signBits_cons : signBits (x :: v) = signBits [x] ++ signBits v := by
  rw [signBits, ← List.singleton_append, List.filter_append, List.map_append]
  rfl

theorem spells_readSign {lav : Nat} (hlav : 0 < lav) :
    Spells s (readSign s (magnitude lav x)) (signBits [x]) (clipped lav x) := by
  by_cases hx : x = 0
  · subst hx
    exact spells_pure
  · have hbits : signBits [x] = [decide (x < 0)] := by simp [signBits, hx]
    have hne : magnitude lav x ≠ 0 := by simp only [magnitude]; omega
    have hvalue : clipped lav x = if (decide (x < 0)).toNat = 1 then -magnitude lav x else magnitude lav x := by
      simp [clipped]
    rw [readSign, if_neg hne, hbits, hvalue]
    exact spells_map (g := fun n => if n = 1 then -magnitude lav x else magnitude lav x) (spells_flag _)

theorem spells_readSigns {lav : Nat} (hlav : 0 < lav) :
    Spells s (readSigns s (v.map (magnitude lav))) (signBits v) (v.map (clipped lav)) := by
  induction v with
  | nil => exact spells_pure
  | cons x v ih =>
    rw [signBits_cons]
    exact spells_bind (spells_readSign hlav) (spells_map (g := fun l => clipped lav x :: l) ih)

/-! ### Escapes -/

/-- The escapes of a tuple, in order. -/
def escapesOf (v : List Int) : List Bool := (v.filter (fun x => decide (16 ≤ x.natAbs))).flatMap escapeBits

theorem escapesOf_cons_of_le (hx : 16 ≤ x.natAbs) : escapesOf (x :: v) = escapeBits x ++ escapesOf v := by
  simp [escapesOf, hx]

theorem escapesOf_cons_of_lt (hx : x.natAbs < 16) : escapesOf (x :: v) = escapesOf v := by
  simp [escapesOf, hx]

theorem natAbs_clipped (hx : 16 ≤ x.natAbs) : (clipped 16 x).natAbs = 16 := by
  rw [clipped_of_ge hx]
  split <;> rfl

/-- Behind the ones of an escape and their zero come its low bits. -/
theorem readEscape_of_escape (hx : 16 ≤ x.natAbs) :
    readEscape s (clipped 16 x) = (do
      let n ← readUnary s false 9
      if n = 9 then BitM.stop .outOfRange
      else do
        let w ← readBits s (n + 4)
        pure (if x < 0 then -((2 ^ (n + 4) + w : Nat) : Int) else ((2 ^ (n + 4) + w : Nat) : Int))) := by
  have hneg : clipped 16 x < 0 ↔ x < 0 := by
    rw [clipped_of_ge hx]
    split <;> omega
  simp only [readEscape, if_pos (natAbs_clipped hx), hneg]

theorem readEscape_of_lt (hx : x.natAbs < 16) : readEscape s (clipped 16 x) = pure x := by
  rw [clipped_of_le hx.le, readEscape, if_neg hx.ne]

/-- A magnitude of 16 to 2^13 - 1 has a leading bit, counted by the ones of its escape, and as many bits behind it. -/
theorem escape_bounds (hx : 16 ≤ x.natAbs) (hmax : x.natAbs < 2 ^ 13) :
    ∃ n < 9, x.natAbs.log2 - 4 = n ∧ 2 ^ (n + 4) ≤ x.natAbs ∧ x.natAbs - 2 ^ (n + 4) < 2 ^ (n + 4) := by
  have h0 : x.natAbs ≠ 0 := by omega
  have hlo : 4 ≤ x.natAbs.log2 := (Nat.le_log2 h0).2 hx
  have hhi : x.natAbs.log2 < 13 := (Nat.log2_lt h0).2 hmax
  have hle := Nat.log2_self_le h0
  have hlt := Nat.lt_log2_self (n := x.natAbs)
  rw [Nat.pow_succ] at hlt
  refine ⟨x.natAbs.log2 - 4, by omega, rfl, ?_⟩
  rw [Nat.sub_add_cancel hlo]
  omega

theorem spells_escape (hx : 16 ≤ x.natAbs) (hmax : x.natAbs < 2 ^ 13) :
    Spells s (readEscape s (clipped 16 x)) (escapeBits x) x := by
  obtain ⟨n, hn, hlog, hlo, hhi⟩ := escape_bounds hx hmax
  have hbits : escapeBits x = (List.replicate n true ++ [false]) ++ bitsOf (x.natAbs - 2 ^ (n + 4)) (n + 4) := by
    simp [escapeBits, hlog]
  have hvalue : x = if x < 0 then -((2 ^ (n + 4) + (x.natAbs - 2 ^ (n + 4)) : Nat) : Int)
      else ((2 ^ (n + 4) + (x.natAbs - 2 ^ (n + 4)) : Nat) : Int) := by
    rw [Nat.add_sub_cancel' hlo]
    split <;> omega
  rw [hbits, readEscape_of_escape hx]
  refine spells_bind (spells_readUnary hn) ?_
  rw [if_neg hn.ne]
  have h := spells_map (s := s) (g := fun w : Nat => if x < 0 then -((2 ^ (n + 4) + w : Nat) : Int)
    else ((2 ^ (n + 4) + w : Nat) : Int)) (spells_readBits hhi)
  rwa [← hvalue] at h

theorem spells_readEscapes (hmax : ∀ x ∈ v, x.natAbs < 2 ^ 13) :
    Spells s (readEscapes s (v.map (clipped 16))) (escapesOf v) v := by
  induction v with
  | nil => exact spells_pure
  | cons x v ih =>
    have hrest := spells_map (g := fun l => x :: l) (ih fun y hy => hmax y (List.mem_cons_of_mem _ hy))
    rcases Nat.lt_or_ge x.natAbs 16 with hx | hx
    · rw [escapesOf_cons_of_lt hx, List.map_cons, readEscapes, readEscape_of_lt hx]
      exact spells_bind (l := []) spells_pure hrest
    · rw [escapesOf_cons_of_le hx]
      exact spells_bind (spells_escape hx (hmax x List.mem_cons_self)) hrest

theorem readEscape_of_nine_ones (hx : 16 ≤ x.natAbs) (hheld : s.holdsBits p (List.replicate 9 true)) :
    readEscape s (clipped 16 x) p = raise .outOfRange := by
  obtain ⟨hend, hones⟩ := holdsBits_replicate.1 hheld
  rw [readEscape_of_escape hx, bitM_bind_of_ok (readUnary_of_no_stop hones hend), if_pos rfl]
  rfl

/-- Behind the escapes before it, an escape of nine ones ends the command. -/
theorem readEscapes_of_nine_ones {pre post : List Int} (hmax : ∀ y ∈ pre, y.natAbs < 2 ^ 13) (hx : 16 ≤ x.natAbs)
    (hheld : s.holdsBits p (escapesOf pre ++ List.replicate 9 true)) :
    readEscapes s ((pre ++ x :: post).map (clipped 16)) p = raise .outOfRange := by
  induction pre generalizing p with
  | nil => exact bitM_bind_of_raise (readEscape_of_nine_ones hx hheld)
  | cons y pre ih =>
    have ih := fun {p} => ih (p := p) fun z hz => hmax z (List.mem_cons_of_mem _ hz)
    rw [List.cons_append, List.map_cons, readEscapes]
    rcases Nat.lt_or_ge y.natAbs 16 with hy | hy
    · rw [escapesOf_cons_of_lt hy] at hheld
      rw [readEscape_of_lt hy, bitM_bind_of_ok (a := y) (p := p) rfl]
      exact bitM_bind_of_raise (ih hheld)
    · rw [escapesOf_cons_of_le hy, List.append_assoc, holdsBits_append] at hheld
      obtain ⟨hfirst, hrest⟩ := hheld
      rw [bitM_bind_of_ok ((spells_escape hy (hmax y List.mem_cons_self) p).1 hfirst)]
      exact bitM_bind_of_raise (ih hrest)

/-! ### Tuples -/

/-- Behind its codeword a tuple is its signs and its escapes, if the symbol is in the codebook's range. -/
theorem decodeTuple_of_symbol {pos : Nat} (hsym : e.sym < CbDesc.base d ^ d.dim)
    (hread : readVlc s table pos = .ok (e.sym, p)) :
    decodeTuple s d table pos = (tupleSigns s d (CbDesc.values d e.sym) >>= tupleEscapes s d) p := by
  rw [decodeTuple, bitM_bind_of_ok hread, if_neg (Nat.not_le.2 hsym)]

section
variable (hd : cbDesc cb = some d) (hv : CbDesc.codes d v = true)
include hd hv

theorem spells_tupleSigns :
    Spells s (tupleSigns s d (CbDesc.values d (undigits (CbDesc.base d) (CbDesc.digitsOf d v))))
      (if d.signed then [] else signBits v) (v.map (clipped d.lav)) := by
  obtain ⟨-, hlav, -⟩ := cbDesc_facts hd
  rw [values_undigits hv, tupleSigns]
  cases hsigned : d.signed with
  | false => exact spells_readSigns hlav
  | true =>
    have hself : v.map (clipped d.lav) = v.map fun x => x :=
      List.map_congr_left fun x hx => clipped_of_le (natAbs_le_lav hv (.inl hsigned) hx)
    rw [hself]
    exact spells_pure

theorem natAbs_lt_of_esc (hesc : d.esc = true) : d.lav = 16 ∧ ∀ x ∈ v, x.natAbs < 2 ^ 13 := by
  obtain ⟨-, -, hescape⟩ := cbDesc_facts hd
  obtain ⟨-, hlav⟩ := hescape hesc
  refine ⟨hlav, fun x hx => ?_⟩
  rcases (codes_iff.1 hv).2 x hx with hle | ⟨-, -, -, hlt⟩
  · exact hle.trans_lt (by rw [hlav]; decide)
  · exact hlt

theorem spells_tupleEscapes :
    Spells s (tupleEscapes s d (v.map (clipped d.lav))) (if d.esc then escapesOf v else []) v := by
  rw [tupleEscapes]
  cases hesc : d.esc with
  | true =>
    obtain ⟨hlav, hmax⟩ := natAbs_lt_of_esc hd hv hesc
    rw [hlav]
    exact spells_readEscapes hmax
  | false =>
    have hself : v.map (clipped d.lav) = v :=
      (List.map_congr_left fun x hx => clipped_of_le (natAbs_le_lav hv (.inr hesc) hx)).trans (List.map_id v)
    rw [hself]
    exact spells_pure

theorem spells_decodeTuple (ht : s.cfg.vlcTable table = some tab) (hl : vlcLegal tab = true) (he : e ∈ tab)
    (hsym : e.sym = undigits (CbDesc.base d) (CbDesc.digitsOf d v)) :
    Spells s (decodeTuple s d table) (tupleBits d e v) v := by
  refine spells_bind (spells_readVlc ht hl he) ?_
  rw [hsym, if_neg (Nat.not_le.2 (undigits_digitsOf_lt hv))]
  exact spells_bind (spells_tupleSigns hd hv) (spells_tupleEscapes hd hv)

theorem decodeTuple_of_nine_ones (ht : s.cfg.vlcTable table = some tab) (hl : vlcLegal tab = true) (he : e ∈ tab)
    (hsym : e.sym = undigits (CbDesc.base d) (CbDesc.digitsOf d v)) {pre post : List Int} (hsplit : v = pre ++ x :: post)
    (hesc : d.esc = true) (hx : 16 ≤ x.natAbs)
    (hheld : s.holdsBits p (codeBits e ++ (signBits v ++ (escapesOf pre ++ List.replicate 9 true)))) :
    decodeTuple s d table p = raise .outOfRange := by
  obtain ⟨-, -, hescape⟩ := cbDesc_facts hd
  obtain ⟨hsigned, -⟩ := hescape hesc
  obtain ⟨hlav, hmax⟩ := natAbs_lt_of_esc hd hv hesc
  rw [holdsBits_append, holdsBits_append] at hheld
  obtain ⟨hcode, hsigns, hescapes⟩ := hheld
  have hsignsRead := (spells_tupleSigns (s := s) hd hv _).1 (by rw [hsigned]; exact hsigns)
  rw [decodeTuple_of_symbol (hsym ▸ undigits_digitsOf_lt hv) ((spells_readVlc ht hl he p).1 hcode), hsym,
    bitM_bind_of_ok hsignsRead, tupleEscapes, if_pos hesc, hlav, hsigned, hsplit]
  rw [hsplit] at hescapes hmax
  exact readEscapes_of_nine_ones (fun y hy => hmax y (List.mem_append_left _ hy)) hx hescapes

end

/-- Settles O45: a tuple's bits spell it; an escape of nine ones and a symbol out of range each end the reading. -/
theorem tuplesDecodeAsSpelled : Obligations.TuplesDecodeAsSpelled := by
  intro s d cb table p tab e v hd ht hl he
  refine ⟨fun hv hsym => ?_, fun hheld hsym => ?_⟩
  · obtain ⟨hread, htruncated⟩ := spells_decodeTuple hd hv ht hl he hsym p
    exact ⟨hread, htruncated, fun pre x post hsplit hesc hx hheld =>
      decodeTuple_of_nine_ones hd hv ht hl he hsym hsplit hesc hx hheld⟩
  · rw [decodeTuple, bitM_bind_of_ok ((spells_readVlc ht hl he p).1 hheld), if_pos hsym]
    rfl

end Sys2Proof.Proofs

/-! SPEC (42_spectral.md R214, R217). Runs of bands with equal codebooks are the sections the command forms; what tuples,
one section and sections in a row answer; what the values make of q and maxMag. -/

namespace Sys2Proof.Proofs

open Sys2Proof Sys2Proof.Machine Sys2Proof.Laws Sys2Proof.Config

variable {s : State} {d : CbDesc} {x : ChannelState} {table cb g b n m pos p : Nat}

/-! ### Bands as sections -/

theorem sectionsOf_cons_head (o : Option Nat) (l : List (Nat × Option Nat)) :
    ∃ bs rest, sectionsOf ((b, o) :: l) = (o, bs) :: rest := by
  rw [sectionsOf]
  split
  · split
    · exact ⟨_, _, rfl⟩
    · exact ⟨_, _, rfl⟩
  · exact ⟨_, _, rfl⟩

/-- Bands with one codebook, before a band with another, are one section. -/
theorem sectionsOf_run {o : Option Nat} {ks : List Nat} {rest : List (Nat × Option Nat)} (hks : ks ≠ [])
    (hrest : ∀ e ∈ rest.head?, e.2 ≠ o) :
    sectionsOf (ks.map (fun k => (k, o)) ++ rest) = (o, ks) :: sectionsOf rest := by
  induction ks with
  | nil => exact absurd rfl hks
  | cons k ks ih =>
    rw [List.map_cons, List.cons_append, sectionsOf]
    cases ks with
    | cons j ks => rw [ih (List.cons_ne_nil _ _)]; exact if_pos rfl
    | nil =>
      cases rest with
      | nil => rfl
      | cons e rest =>
        obtain ⟨bs, secs, hsecs⟩ := sectionsOf_cons_head (b := e.1) e.2 rest
        rw [List.map_nil, List.nil_append, hsecs]
        exact if_neg (hrest e rfl).symm

/-- `n` bands from `b` on, each with its codebook. -/
def booksFrom (book : Nat → Option Nat) (b n : Nat) : List (Nat × Option Nat) :=
  (List.range' b n).map fun k => (k, book k)

section
variable {book : Nat → Option Nat}

theorem booksFrom_add : booksFrom book b (n + m) = booksFrom book b n ++ booksFrom book (b + n) m := by
  rw [booksFrom, ← List.range'_append_1, List.map_append]
  rfl

theorem booksFrom_const {o : Option Nat} (h : ∀ k < n, book (b + k) = o) :
    booksFrom book b n = (List.range' b n).map fun k => (k, o) := by
  refine List.map_congr_left fun k hk => ?_
  obtain ⟨hb, hlt⟩ := List.mem_range'_1.1 hk
  have := h (k - b) (by omega)
  rw [Nat.add_sub_cancel' hb] at this
  rw [this]

/-- A run of `n` bands with one codebook, before the end or a band with another. -/
theorem sectionsOf_booksFrom {o : Option Nat} (hn : 0 < n) (h : ∀ k < n, book (b + k) = o)
    (hnext : m = 0 ∨ book (b + n) ≠ o) :
    sectionsOf (booksFrom book b (n + m)) = (o, List.range' b n) :: sectionsOf (booksFrom book (b + n) m) := by
  rw [booksFrom_add, booksFrom_const h]
  refine sectionsOf_run (by rw [Ne, List.range'_eq_nil_iff]; omega) ?_
  cases m with
  | zero => simp [booksFrom]
  | succ m =>
    rcases hnext with h0 | hne
    · cases h0
    · simpa [booksFrom, List.range'_succ] using hne

/-- The sections of the runs of bands from band `b` on. -/
def runBands : Nat → List (Nat × Nat × List Int) → List (Option Nat × List Nat)
  | _, [] => []
  | b, (cb, n, _) :: l => (some cb, List.range' b n) :: runBands (b + n) l

theorem runBooks_cons {vals : List Int} {l : List (Nat × Nat × List Int)} :
    runBooks ((cb, n, vals) :: l) = List.replicate n cb ++ runBooks l := rfl

theorem runBooks_cons_of_lt {vals : List Int} {l : List (Nat × Nat × List Int)} {k : Nat} (hk : k < n) :
    (runBooks ((cb, n, vals) :: l))[k]? = some cb := by
  rw [runBooks_cons, List.getElem?_append_left (by simpa using hk), List.getElem?_replicate, if_pos hk]

theorem runBooks_cons_of_ge {vals : List Int} {l : List (Nat × Nat × List Int)} (k : Nat) :
    (runBooks ((cb, n, vals) :: l))[n + k]? = (runBooks l)[k]? := by
  rw [runBooks_cons, List.getElem?_append_right (by simp), List.length_replicate, Nat.add_sub_cancel_left]

/-- Runs of bands, neighbours with different codebooks, are sections of their own before the bands behind them. -/
theorem sectionsOf_runs {runs : List (Nat × Nat × List Int)} (hpos : ∀ r ∈ runs, 0 < r.2.1)
    (hchain : runs.IsChain (fun a b => a.1 ≠ b.1))
    (hbook : ∀ k < (runBooks runs).length, book (b + k) = (runBooks runs)[k]?)
    (hnext : ∀ r ∈ runs.getLast?, m = 0 ∨ book (b + (runBooks runs).length) ≠ some r.1) :
    sectionsOf (booksFrom book b ((runBooks runs).length + m)) =
      runBands b runs ++ sectionsOf (booksFrom book (b + (runBooks runs).length) m) := by
  induction runs generalizing b with
  | nil => simp [runBooks, runBands]
  | cons r l ih =>
    obtain ⟨cb, n, vals⟩ := r
    have hlen : (runBooks ((cb, n, vals) :: l)).length = n + (runBooks l).length := by simp [runBooks_cons]
    rw [hlen] at hbook hnext ⊢
    have hrun (k : Nat) (hk : k < n) : book (b + k) = some cb :=
      (hbook k (by omega)).trans (runBooks_cons_of_lt hk)
    have hlater (k : Nat) (hk : k < (runBooks l).length) : book (b + n + k) = (runBooks l)[k]? := by
      rw [Nat.add_assoc, hbook (n + k) (by omega), runBooks_cons_of_ge]
    have hbehind : (runBooks l).length + m = 0 ∨ book (b + n) ≠ some cb := by
      cases l with
      | nil => simpa [runBooks] using hnext (cb, n, vals) rfl
      | cons r' l =>
        obtain ⟨cb', n', vals'⟩ := r'
        have hn' : 0 < n' := hpos (cb', n', vals') (by simp)
        have hfirst := hlater 0 (by simp [runBooks_cons, hn'])
        rw [Nat.add_zero, runBooks_cons_of_lt hn'] at hfirst
        rw [hfirst]
        exact .inr fun h => (List.isChain_cons_cons.1 hchain).1 (Option.some.inj h).symm
    rw [Nat.add_assoc, sectionsOf_booksFrom (hpos (cb, n, vals) (by simp)) hrun hbehind,
      ih (fun r hr => hpos r (by simp [hr])) hchain.tail hlater fun r hr => ?_, runBands, List.cons_append,
      Nat.add_assoc]
    have hlast : ((cb, n, vals) :: l).getLast? = some r := by rw [List.getLast?_cons, Option.mem_def.1 hr]; rfl
    rw [Nat.add_assoc]
    exact hnext r hlast

end

/-! ### Tuples in a row -/

/-- A value in front of what a computation answers makes it longer by one. -/
theorem length_of_read_cons {m : BitM Int} {r : BitM (List Int)} {n : Nat} {l : List Int}
    (hr : ∀ {pos l p}, r pos = .ok (l, p) → l.length = n)
    (h : (m >>= fun v => r >>= fun l => pure (v :: l)) pos = .ok (l, p)) : l.length = n + 1 := by
  obtain ⟨v, p1, -, h⟩ := bitM_bind_ok.1 h
  obtain ⟨l1, p2, hl, h⟩ := bitM_bind_ok.1 h
  cases bitM_pure_ok.1 h
  rw [List.length_cons, hr hl]

theorem readSigns_length {l l' : List Int} (h : readSigns s l pos = .ok (l', p)) : l'.length = l.length := by
  induction l generalizing l' pos p with
  | nil => cases bitM_pure_ok.1 h; rfl
  | cons v l ih => exact length_of_read_cons ih h

theorem readEscapes_length {l l' : List Int} (h : readEscapes s l pos = .ok (l', p)) : l'.length = l.length := by
  induction l generalizing l' pos p with
  | nil => cases bitM_pure_ok.1 h; rfl
  | cons v l ih => exact length_of_read_cons ih h

theorem tupleSigns_length {l l' : List Int} (h : tupleSigns s d l pos = .ok (l', p)) : l'.length = l.length := by
  rw [tupleSigns] at h
  split at h
  · cases bitM_pure_ok.1 h; rfl
  · exact readSigns_length h

theorem tupleEscapes_length {l l' : List Int} (h : tupleEscapes s d l pos = .ok (l', p)) : l'.length = l.length := by
  rw [tupleEscapes] at h
  split at h
  · exact readEscapes_length h
  · cases bitM_pure_ok.1 h; rfl

theorem length_digits (v m k : Nat) : (digits v m k).length = k := by
  induction k with
  | zero => rfl
  | succ k ih => rw [digits, List.length_cons, ih]

/-- A tuple has `dim` values. -/
theorem decodeTuple_length {v : List Int} (h : decodeTuple s d table pos = .ok (v, p)) : v.length = d.dim := by
  obtain ⟨sym, p1, -, h⟩ := bitM_bind_ok.1 h
  split at h
  · exact (bitM_stop_ok.1 h).elim
  · obtain ⟨v1, p2, hsigns, h⟩ := bitM_bind_ok.1 h
    rw [tupleEscapes_length h, tupleSigns_length hsigns, CbDesc.values, List.length_map, length_digits]

theorem readTuples_of_readsTuples {tuples : List (List Int)} (h : s.readsTuples d table pos tuples p) :
    readTuples s d table tuples.length pos = .ok (tuples.flatten, p) ∧
      tuples.flatten.length = d.dim * tuples.length := by
  induction tuples generalizing pos with
  | nil => rw [show p = pos from h]; exact ⟨rfl, rfl⟩
  | cons v l ih =>
    obtain ⟨p1, hv, hl⟩ := h
    obtain ⟨hread, hlen⟩ := ih hl
    rw [List.length_cons, readTuples, bitM_bind_of_ok hv, bitM_bind_of_ok hread, List.flatten_cons, List.length_append,
      hlen, decodeTuple_length hv, Nat.mul_succ, Nat.add_comm]
    exact ⟨rfl, rfl⟩

/-- Behind the tuples before it, an error of a tuple is the section's. -/
theorem readTuples_of_raise {tuples : List (List Int)} {e : FatalError} (h : s.readsTuples d table pos tuples p)
    (he : decodeTuple s d table p = raise e) (hn : tuples.length < n) : readTuples s d table n pos = raise e := by
  obtain ⟨n, rfl⟩ : ∃ k, n = k + 1 := ⟨n - 1, by omega⟩
  induction tuples generalizing pos n with
  | nil =>
    rw [← show p = pos from h]
    exact bitM_bind_of_raise he
  | cons v l ih =>
    obtain ⟨p1, hv, hl⟩ := h
    obtain ⟨n, rfl⟩ : ∃ k, n = k + 1 := ⟨n - 1, by rw [List.length_cons] at hn; omega⟩
    rw [readTuples, bitM_bind_of_ok hv]
    exact bitM_bind_of_raise (ih hl n (by simpa using hn))

/-! ### One section -/

/-- A section read from bit `pos` to bit `p`: codebook 0 reads nothing and gives 0, another one gives the values of its
tuples (42_spectral.md R214). -/
def readsSection (s : State) (pos cb : Nat) (samples : List Nat) (vals : List Int) (p : Nat) : Prop :=
  if cb = 0 then vals = List.replicate samples.length 0 ∧ p = pos
  else ∃ d tuples, cbDesc cb = some d ∧ samples.length = d.dim * tuples.length ∧ vals = tuples.flatten ∧
    s.readsTuples d (atD s.cfg.cbTable cb 0) pos tuples p

section
variable {samples : List Nat} {vals : List Int}

theorem readSection_of_book (h0 : cb ≠ 0) (hd : cbDesc cb = some d) :
    readSection s cb samples =
      if samples.length % d.dim ≠ 0 then BitM.stop .invalidBlockConfig
      else readTuples s d (atD s.cfg.cbTable cb 0) (samples.length / d.dim) >>= fun v => pure (samples.zip v) := by
  simp only [readSection, if_neg h0, hd]

theorem zip_replicate (l : List Nat) (v : Int) : l.zip (List.replicate l.length v) = l.map fun k => (k, v) := by
  induction l with
  | nil => rfl
  | cons k l ih => rw [List.length_cons, List.replicate_succ, List.zip_cons_cons, ih, List.map_cons]

theorem readSection_of_readsSection (h : readsSection s pos cb samples vals p) :
    readSection s cb samples pos = .ok (samples.zip vals, p) ∧ vals.length = samples.length := by
  unfold readsSection at h
  split at h
  · next h0 =>
    obtain ⟨rfl, rfl⟩ := h
    rw [readSection, if_pos h0, zip_replicate]
    exact ⟨rfl, List.length_replicate⟩
  · next h0 =>
    obtain ⟨d, tuples, hd, hlen, rfl, htuples⟩ := h
    obtain ⟨hdim, -⟩ := cbDesc_facts hd
    obtain ⟨hread, hflat⟩ := readTuples_of_readsTuples htuples
    rw [readSection_of_book h0 hd, hlen, if_neg (by simp), Nat.mul_div_cancel_left _ hdim, bitM_bind_of_ok hread]
    exact ⟨rfl, hflat⟩

theorem readSection_of_bad_count (h0 : cb ≠ 0) (hd : cbDesc cb = some d) (hcount : samples.length % d.dim ≠ 0) :
    readSection s cb samples pos = raise .invalidBlockConfig := by
  rw [readSection_of_book h0 hd, if_pos hcount]
  rfl

theorem readSection_of_bad_tuple {tuples : List (List Int)} {e : FatalError} (h0 : cb ≠ 0) (hd : cbDesc cb = some d)
    (hcount : samples.length % d.dim = 0) (hlt : tuples.length < samples.length / d.dim)
    (htuples : s.readsTuples d (atD s.cfg.cbTable cb 0) pos tuples p)
    (he : decodeTuple s d (atD s.cfg.cbTable cb 0) p = raise e) : readSection s cb samples pos = raise e := by
  rw [readSection_of_book h0 hd, if_neg (by simpa using hcount)]
  exact bitM_bind_of_raise (readTuples_of_raise htuples he hlt)

end

/-! ### Sections in a row -/

/-- The sections' samples with their values. -/
def sectionValues (secs : List (Nat × List Nat × List Int)) : List (Nat × Int) :=
  secs.flatMap fun e => e.2.1.zip e.2.2

theorem readsSections_cons {samples : List Nat} {vals : List Int} {l : List (Nat × List Nat × List Int)} :
    s.readsSections pos ((cb, samples, vals) :: l) p ↔
      ∃ p1, readsSection s pos cb samples vals p1 ∧ s.readsSections p1 l p := Iff.rfl

theorem readsSections_lengths {secs : List (Nat × List Nat × List Int)} (h : s.readsSections pos secs p) :
    ∀ e ∈ secs, e.2.2.length = e.2.1.length := by
  induction secs generalizing pos with
  | nil => simp
  | cons e l ih =>
    obtain ⟨p1, hsec, hl⟩ := readsSections_cons.1 h
    rw [List.forall_mem_cons]
    exact ⟨(readSection_of_readsSection hsec).2, ih hl⟩

theorem readAllSections_cons {bs : List Nat} {l : List (Option Nat × List Nat)} :
    readAllSections s x g ((some cb, bs) :: l) pos =
      (readSection s cb (bs.flatMap (x.samples g)) >>= fun v =>
        readAllSections s x g l >>= fun rest => pure (v ++ rest)) pos := rfl

theorem readAllSections_of_no_book {bs : List Nat} {l : List (Option Nat × List Nat)} :
    readAllSections s x g ((none, bs) :: l) pos = raise .illegalCommand := rfl

theorem readAllSections_of_raise {bs : List Nat} {l : List (Option Nat × List Nat)} {e : FatalError}
    (h : readSection s cb (bs.flatMap (x.samples g)) pos = raise e) :
    readAllSections s x g ((some cb, bs) :: l) pos = raise e :=
  readAllSections_cons.trans (bitM_bind_of_raise h)

/-- Runs that read give their values before those of the sections behind them. -/
theorem readAllSections_runs {runs : List (Nat × Nat × List Int)} {rest : List (Option Nat × List Nat)}
    (h : s.readsSections pos (runSections x g b runs) p) :
    readAllSections s x g (runBands b runs ++ rest) pos =
      (readAllSections s x g rest p).map fun r => (sectionValues (runSections x g b runs) ++ r.1, r.2) := by
  induction runs generalizing b pos with
  | nil =>
    rw [show p = pos from h]
    exact (congrFun Except.map_id _).symm
  | cons r l ih =>
    obtain ⟨cb, n, vals⟩ := r
    obtain ⟨p1, hsec, hl⟩ := readsSections_cons.1 h
    rw [runBands, List.cons_append, readAllSections_cons, bitM_bind_of_ok (readSection_of_readsSection hsec).1,
      bitM_bind_pure, ih hl]
    cases readAllSections s x g rest p with
    | error y => rfl
    | ok r => simp [Except.map, sectionValues, runSections]

/-! ### The samples of bands -/

theorem mem_samples {k : Nat} : k ∈ x.samples g b ↔ x.mapAt k = some (g, b) := by
  rw [ChannelState.samples, List.mem_filter, List.mem_range, beq_iff_eq]
  refine and_iff_right_of_imp fun h => ?_
  by_contra hk
  rw [ChannelState.mapAt, atD, Vector.getElem?_eq_none (Nat.not_lt.1 hk)] at h
  cases h

theorem lt_of_mem_samples {k : Nat} (h : k ∈ x.samples g b) : k < 2048 := by
  rw [ChannelState.samples, List.mem_filter, List.mem_range] at h
  exact h.1

/-- The samples of bands from `b` on, in band order. -/
def bandSamples (x : ChannelState) (g b n : Nat) : List Nat := (List.range' b n).flatMap (x.samples g)

theorem mem_bandSamples {k : Nat} : k ∈ bandSamples x g 0 n ↔ ∃ b < n, x.mapAt k = some (g, b) := by
  simp [bandSamples, List.mem_flatMap, List.mem_range'_1, mem_samples]

/-- No sample is in two bands. -/
theorem nodup_bandSamples : (bandSamples x g b n).Nodup := by
  refine List.nodup_flatMap.2 ⟨fun _ _ => List.nodup_range.filter _, ?_⟩
  refine List.Pairwise.imp (fun hne k hk hk' => hne ?_) List.nodup_range'
  rw [mem_samples] at hk hk'
  simpa [hk] using hk'

theorem map_fst_sectionValues {secs : List (Nat × List Nat × List Int)}
    (h : ∀ e ∈ secs, e.2.2.length = e.2.1.length) :
    (sectionValues secs).map Prod.fst = secs.flatMap fun e => e.2.1 := by
  rw [sectionValues, List.map_flatMap]
  exact List.flatMap_congr fun e he => List.map_fst_zip (h e he).ge

theorem samples_runSections {runs : List (Nat × Nat × List Int)} :
    (runSections x g b runs).flatMap (fun e => e.2.1) = bandSamples x g b (runBooks runs).length := by
  induction runs generalizing b with
  | nil => rfl
  | cons r l ih =>
    obtain ⟨cb, n, vals⟩ := r
    rw [runSections, List.flatMap_cons, ih, runBooks_cons, List.length_append, List.length_replicate, bandSamples,
      bandSamples, ← List.flatMap_append, List.range'_append_1]

/-! ### SPEC -/

/-- The greatest magnitude of some samples, 0 where there is none (42_spectral.md R217). -/
def greatest (q : Tab Int 2048) (l : List Nat) : Nat := l.foldl (fun m k => max m ((q.at? k).getD 0).natAbs) 0

theorem maxMagOf_eq {q : Tab Int 2048} {l : List Nat} (h : ∀ k ∈ l, ∃ v, q.at? k = some v) :
    maxMagOf q l = .ok (greatest q l) := by
  have hget : mapE (Tab.get q) l = .ok (l.map fun k => (q.at? k).getD 0) := by
    refine mapE_of_forall fun k hk => ?_
    obtain ⟨v, hv⟩ := h k hk
    simp [Tab.get, hv]
  rw [maxMagOf, hget]
  exact congrArg Except.ok List.foldl_map

theorem greatest_congr {q q' : Tab Int 2048} {l : List Nat} (h : ∀ k ∈ l, q.at? k = q'.at? k) :
    greatest q l = greatest q' l :=
  List.foldl_ext _ _ 0 fun m k hk => by rw [h k hk]

section
variable {c : Fin 8} {g : Fin 16} {vals : List (Nat × Int)}

theorem exec_spec (c g : BitVec 4) (s : State) :
    exec (.spec c g) s = s.command [c] (specBody (slotOf c) (groupOf g)) := rfl

/-- The codebook of band `b` of group g. -/
def bookOf (s : State) (c : Fin 8) (g : Fin 16) (b : Nat) : Option Nat := (s.chanAt c).cb.at? (64 * g.val + b)

/-- The samples of the group's windows in no band. -/
def gapSamples (x : ChannelState) (g : Nat) : List Nat := (x.groupSamples g).filter fun k => (x.mapAt k).isNone

/-- F[c] with the values `vals` and 0 in the samples of no band, less the stage (42_spectral.md R214). -/
def spectralChan (s : State) (c : Fin 8) (g : Fin 16) (vals : List (Nat × Int)) : ChanFrame :=
  let f := s.chanAt c
  let x := s.wAt c
  let q := f.q.put vals
  { f with
    q := q.put ((gapSamples x g).map fun k => (k, 0))
    maxMag := f.maxMag.put (indexed (64 * g.val) ((List.range (x.bands g)).map fun b => greatest q (x.samples g b))) }

/-- Behind its checks SPEC reads the sections, takes the magnitudes of the bands, and answers its state. -/
theorem specBody_eq (hopen : s.requireGroup c g [.sect g] = .ok ()) :
    specBody c g s =
      readAllSections s (s.wAt c) g (sectionsOf (booksFrom (bookOf s c g) 0 ((s.wAt c).bands g))) s.bitpos.toNat >>=
        fun r => (mapE (fun b => maxMagOf ((s.chanAt c).q.put r.1) ((s.wAt c).samples g b))
          (List.range ((s.wAt c).bands g))).map fun mags =>
            chanWritten s c (BitVec.ofNat 32 r.2)
              { spectralChan s c g r.1 with maxMag := (s.chanAt c).maxMag.put (indexed (64 * g.val) mags) }
              (.spec g) := by
  unfold specBody
  rw [hopen, booksFrom, ← List.range_eq_range']
  refine congrArg (readAllSections s (s.wAt c) g _ s.bitpos.toNat >>= ·) (funext fun r => ?_)
  show mapE (fun b => maxMagOf ((s.chanAt c).q.put r.1) ((s.wAt c).samples g b)) (List.range ((s.wAt c).bands g)) >>= _
    = _
  cases mapE (fun b => maxMagOf ((s.chanAt c).q.put r.1) ((s.wAt c).samples g b))
    (List.range ((s.wAt c).bands g)) <;> rfl

theorem specBody_of_raise {e : FatalError} (hopen : s.requireGroup c g [.sect g] = .ok ())
    (hread : readAllSections s (s.wAt c) g (sectionsOf (booksFrom (bookOf s c g) 0 ((s.wAt c).bands g)))
      s.bitpos.toNat = raise e) : specBody c g s = raise e := by
  rw [specBody_eq hopen, hread]
  rfl

theorem specBody_of_ok (hopen : s.requireGroup c g [.sect g] = .ok ())
    (hread : readAllSections s (s.wAt c) g (sectionsOf (booksFrom (bookOf s c g) 0 ((s.wAt c).bands g)))
      s.bitpos.toNat = .ok (vals, p))
    (hvals : ∀ b < (s.wAt c).bands g, ∀ k ∈ (s.wAt c).samples g b, ∃ v, ((s.chanAt c).q.put vals).at? k = some v) :
    specBody c g s = .ok (chanWritten s c (BitVec.ofNat 32 p) (spectralChan s c g vals) (.spec g)) := by
  have hmags : mapE (fun b => maxMagOf ((s.chanAt c).q.put vals) ((s.wAt c).samples g b))
      (List.range ((s.wAt c).bands g)) =
      .ok ((List.range ((s.wAt c).bands g)).map fun b => greatest ((s.chanAt c).q.put vals) ((s.wAt c).samples g b)) :=
    mapE_of_forall fun b hb => maxMagOf_eq (hvals b (List.mem_range.1 hb))
  rw [specBody_eq hopen, hread]
  exact congrArg (Except.map _) hmags

section
variable (hkeys : vals.map Prod.fst = bandSamples (s.wAt c) g 0 ((s.wAt c).bands g))
include hkeys

/-- The values are those of the samples of the group's bands. -/
theorem mem_vals_iff {k : Nat} :
    (∃ v, (k, v) ∈ vals) ↔ ∃ b < (s.wAt c).bands g, (s.wAt c).mapAt k = some (g.val, b) := by
  rw [← mem_bandSamples, ← hkeys]
  simp

theorem vals_unique {k : Nat} {v w : Int} (hv : (k, v) ∈ vals) (hw : (k, w) ∈ vals) : w = v := by
  have hnodup : (vals.map Prod.fst).Nodup := hkeys ▸ nodup_bandSamples
  exact (Prod.mk.inj (List.inj_on_of_nodup_map hnodup hw hv rfl)).2

theorem put_vals {k : Nat} {v : Int} {q : Tab Int 2048} (h : (k, v) ∈ vals) : (q.put vals).at? k = some v := by
  obtain ⟨b, -, hk⟩ := (mem_vals_iff hkeys).1 ⟨v, h⟩
  exact at?_put_of_mem (lt_of_mem_samples (mem_samples.2 hk)) h fun w hw => vals_unique hkeys h hw

theorem put_vals_of_band {k b : Nat} {q : Tab Int 2048} (hb : b < (s.wAt c).bands g)
    (hk : k ∈ (s.wAt c).samples g b) : ∃ v, (q.put vals).at? k = some v := by
  obtain ⟨v, hv⟩ := (mem_vals_iff hkeys).2 ⟨b, hb, mem_samples.1 hk⟩
  exact ⟨v, put_vals hkeys hv⟩

end

theorem mem_gapSamples {x : ChannelState} {g k : Nat} :
    k ∈ gapSamples x g ↔ k ∈ x.groupSamples g ∧ x.mapAt k = none := by
  simp [gapSamples]

theorem spectralChan_q (hw : ∀ w ∈ (s.wAt c).wins, w.off + w.len ≤ 2048) (k : Nat) :
    (spectralChan s c g vals).q.at? k =
      if k ∈ gapSamples (s.wAt c) g then some 0 else ((s.chanAt c).q.put vals).at? k :=
  at?_put_map fun _ hk => lt_of_mem_groupSamples hw (mem_gapSamples.1 hk).1

/-- The values of the samples of bands stand as they were read. -/
theorem spectralChan_q_of_band (hw : ∀ w ∈ (s.wAt c).wins, w.off + w.len ≤ 2048) {k h b : Nat}
    (hk : (s.wAt c).mapAt k = some (h, b)) :
    (spectralChan s c g vals).q.at? k = ((s.chanAt c).q.put vals).at? k := by
  rw [spectralChan_q hw, if_neg fun hgap => ?_]
  rw [(mem_gapSamples.1 hgap).2] at hk
  cases hk

/-- Every sample of the sections has its value. -/
theorem spectralChan_q_of_section {secs : List (Nat × List Nat × List Int)}
    (hw : ∀ w ∈ (s.wAt c).wins, w.off + w.len ≤ 2048) (hlens : ∀ e ∈ secs, e.2.2.length = e.2.1.length)
    (hkeys : (sectionValues secs).map Prod.fst = bandSamples (s.wAt c) g 0 ((s.wAt c).bands g)) :
    ∀ e ∈ secs, ∀ i < e.2.1.length, ∃ v, e.2.2[i]? = some v ∧
      (spectralChan s c g (sectionValues secs)).q.at? (e.2.1.getD i 0) = some v := by
  intro e he i hi
  have hlen := hlens e he
  have hmem : (e.2.1.getD i 0, e.2.2[i]) ∈ sectionValues secs := by
    refine List.mem_flatMap.2 ⟨e, he, List.mem_iff_getElem.2 ⟨i, by simp [hlen, hi], ?_⟩⟩
    rw [List.getElem_zip, List.getD_eq_getElem _ _ hi]
  obtain ⟨b, -, hk⟩ := (mem_vals_iff hkeys).1 ⟨_, hmem⟩
  exact ⟨_, List.getElem?_eq_getElem (by omega), (spectralChan_q_of_band hw hk).trans (put_vals hkeys hmem)⟩

/-- Only samples of the group's bands and the samples of no band are written. -/
theorem spectralChan_q_sameBut (hw : ∀ w ∈ (s.wAt c).wins, w.off + w.len ≤ 2048)
    (hkeys : vals.map Prod.fst = bandSamples (s.wAt c) g 0 ((s.wAt c).bands g)) :
    (s.chanAt c).q.sameBut (fun k => (∃ b < (s.wAt c).bands g, (s.wAt c).mapAt k = some (g.val, b)) ∨
      (k ∈ (s.wAt c).groupSamples g ∧ (s.wAt c).mapAt k = none)) (spectralChan s c g vals).q := by
  intro k hk
  obtain ⟨hband, hgap⟩ := not_or.1 hk
  rw [spectralChan_q hw, if_neg fun h => hgap (mem_gapSamples.1 h)]
  exact at?_put_of_not_mem fun v hv => hband ((mem_vals_iff hkeys).1 ⟨v, hv⟩)

theorem spectralChan_maxMag (hw : ∀ w ∈ (s.wAt c).wins, w.off + w.len ≤ 2048) (hms : (s.wAt c).bands g ≤ 64)
    (i : Nat) : (spectralChan s c g vals).maxMag.at? i =
      if 64 * g.val ≤ i ∧ i < 64 * g.val + (s.wAt c).bands g then
        some (greatest (spectralChan s c g vals).q ((s.wAt c).samples g (i - 64 * g.val)))
      else (s.chanAt c).maxMag.at? i := by
  have hlen : ((List.range ((s.wAt c).bands g)).map fun b =>
      greatest ((s.chanAt c).q.put vals) ((s.wAt c).samples g b)).length = (s.wAt c).bands g := by simp
  refine (at?_put_indexed (by rw [hlen]; omega)).trans ?_
  rw [hlen]
  refine if_ctx_congr Iff.rfl (fun hi => ?_) fun _ => rfl
  rw [List.getElem?_map, List.getElem?_range (by omega), Option.map_some]
  exact congrArg some (greatest_congr fun k hk => (spectralChan_q_of_band hw (mem_samples.1 hk)).symm)

end

/-- Settles O46: the runs are the sections the command forms; they read in order, and what stands behind them decides
how it ends. -/
theorem specReadsCoefficients : Obligations.SpecReadsCoefficients := by
  intro s c g runs p hs hc hcur x y f ms total secs book hg hsect hms htotal hw hpos hchain hbook hreads
  have hopen : s.requireGroup x (groupOf g) [.sect g.toFin] = .ok () :=
    requireGroup_of_done hs hg (by simpa using hsect)
  have hread (m : Nat) (hm : total + m = ms) (hnext : ∀ r ∈ runs.getLast?, m = 0 ∨ book total ≠ some r.1) :
      readAllSections s y g.toNat (sectionsOf (booksFrom book 0 ms)) s.bitpos.toNat =
        (readAllSections s y g.toNat (sectionsOf (booksFrom book total m)) p).map
          fun r => (sectionValues secs ++ r.1, r.2) := by
    have hsecs := sectionsOf_runs (b := 0) (m := m) hpos hchain (by simpa using hbook) (by simpa using hnext)
    rw [← hm, hsecs, Nat.zero_add]
    exact readAllSections_runs hreads
  rw [exec_spec]
  refine ⟨fun hall => ?_, fun hlt hlast => ?_⟩
  · have hvals : readAllSections s y g.toNat (sectionsOf (booksFrom book 0 ms)) s.bitpos.toNat =
        .ok (sectionValues secs, p) := by
      rw [hread 0 hall fun _ _ => .inl rfl]
      exact congrArg (fun l => Except.ok (l, p)) (List.append_nil _)
    have hlens := readsSections_lengths hreads
    have hkeys : (sectionValues secs).map Prod.fst = bandSamples y g.toNat 0 ms := by
      rw [map_fst_sectionValues hlens, samples_runSections]
      exact congrArg (bandSamples y g.toNat 0) hall
    have hbody := specBody_of_ok hopen hvals fun b hb k hk => put_vals_of_band (g := groupOf g) hkeys hb hk
    obtain ⟨-, hp⟩ := reads_readAllSections y g.toNat _ _ _ _ hcur hvals
    have hmag := spectralChan_maxMag (g := groupOf g) (vals := sectionValues secs) hw hms
    refine ⟨_, command_of_body_ok hs hc hbody, chanWritten_endsOn, ⟨rfl, rfl, rfl⟩, rfl, toNat_ofNat_of_le hp, ?_,
      chanWritten_doneAdds rfl, ?_⟩ <;> rw [chanWritten_chanAt]
    · rfl
    · refine ⟨spectralChan_q_of_section (g := groupOf g) hw hlens hkeys, fun k hk hno => ?_,
        spectralChan_q_sameBut (g := groupOf g) hw hkeys, fun b hb => ?_, fun i hi => (hmag i).trans (if_neg hi)⟩
      · exact (spectralChan_q hw k).trans (if_pos (mem_gapSamples.2 ⟨hk, hno⟩))
      · refine (hmag (64 * (groupOf g).val + b)).trans ?_
        rw [if_pos ⟨Nat.le_add_right _ _, Nat.add_lt_add_left hb _⟩, Nat.add_sub_cancel_left]
        rfl
  · have hrest := hread (ms - total) (by omega) fun r hr => .inr (hlast r hr)
    have hraise {e : FatalError}
        (h : readAllSections s y g.toNat (sectionsOf (booksFrom book total (ms - total))) p = raise e) :
        s.command [c] (specBody x (groupOf g)) = .next (s.failedWith e.code) :=
      command_of_body_raise hs hc (specBody_of_raise hopen (hrest.trans (congrArg _ h)))
    refine ⟨fun hnone => ?_, fun cb d n hn hfits h0 hd hrun hnext => ?_⟩
    · obtain ⟨k, hk⟩ : ∃ k, ms - total = k + 1 := ⟨ms - total - 1, by omega⟩
      obtain ⟨bs, rest, hsecs⟩ := sectionsOf_cons_head (b := total) none (booksFrom book (total + 1) k)
      refine hraise (e := .illegalCommand) ?_
      rw [hk, booksFrom, List.range'_succ, List.map_cons, hnone]
      exact (congrArg (readAllSections s y g.toNat · p) hsecs).trans readAllSections_of_no_book
    · have hsecs := sectionsOf_booksFrom (m := ms - total - n) hn hrun (hnext.imp (by omega) id)
      rw [show n + (ms - total - n) = ms - total by omega] at hsecs
      have hsection {e : FatalError} (h : readSection s cb (bandSamples y g.toNat total n) p = raise e) :
          s.command [c] (specBody x (groupOf g)) = .next (s.failedWith e.code) :=
        hraise (by rw [hsecs]; exact readAllSections_of_raise h)
      exact ⟨fun hcount => hsection (e := .invalidBlockConfig) (readSection_of_bad_count h0 hd hcount),
        fun tuples q e hcount htuples hreadTuples he =>
          hsection (readSection_of_bad_tuple h0 hd hcount htuples hreadTuples he)⟩

end Sys2Proof.Proofs

/-! SF (42_spectral.md R217, R218). What one band reads and what it makes of the accumulators, the bits that spell it and
the ways its reading fails; then the bands in a row. -/

namespace Sys2Proof.Proofs

open Sys2Proof Sys2Proof.Machine Sys2Proof.Laws Sys2Proof.Config

variable {s : State} {f : ChanFrame} {a : SfAcc} {snfp explicit : Bool} {e : VlcEntry} {g b pos p table : Nat}
  {tab : List VlcEntry}

/-! ### Which bands have a scale factor -/

theorem explicitSf_ok_iff : explicitSf f g b = .ok explicit ↔ f.scaled g b explicit := by
  have hne (mag : Nat) : (mag != 0) = decide (mag ≠ 0) := by cases mag <;> rfl
  simp only [explicitSf, ChanFrame.scaled, band, Tab.get, bind_ok, valueOf_ok]
  refine exists_congr fun cb => and_congr_right fun _ => ?_
  split
  · exact pure_ok
  · simp only [bind_ok, valueOf_ok, pure_ok, hne]

theorem stopsOnlyWith_valueOf {α : Type} (o : Option α) : StopsOnlyWith .illegalCommand (valueOf o) := by
  intro x hx
  cases o <;> cases hx
  rfl

theorem explicitSf_stopsOnlyWith : StopsOnlyWith .illegalCommand (explicitSf f g b) := by
  refine stopsOnlyWith_bind (stopsOnlyWith_valueOf _) fun cb _ => ?_
  split
  · exact stopsOnlyWith_pure _ _
  · exact stopsOnlyWith_bind (stopsOnlyWith_valueOf _) fun _ _ => stopsOnlyWith_pure _ _

/-- A band without a codebook, or with one and without a magnitude, is neither. -/
theorem explicitSf_of_not_scaled (h : ∀ explicit, ¬f.scaled g b explicit) : explicitSf f g b = raise .illegalCommand := by
  cases hr : explicitSf f g b with
  | ok explicit => exact absurd (explicitSf_ok_iff.1 hr) (h explicit)
  | error x => rw [explicitSf_stopsOnlyWith x hr]; rfl

/-! ### One band -/

/-- What SF reads for a band: its scale factor and its noise-fill value, and the accumulators behind it. -/
def readBand (s : State) (snfp : Bool) (a : SfAcc) (explicit : Bool) : BitM ((Option Int × Option Int) × SfAcc) :=
  if explicit then readSf s a >>= fun a => pure ((some a.acc, none), a)
  else if snfp then readVlc s s.cfg.snfTable >>= fun n =>
    pure ((none, some (a.snf + n - 60)), { a with snf := a.snf + n - 60 })
  else pure ((none, none), a)

/-- The loop over the bands reads a band, if its codebook and its magnitude say which, and goes on. -/
theorem readSfs_cons {l : List Nat} (h : explicitSf f g b = .ok explicit) :
    readSfs s f g snfp (b :: l) a pos =
      (readBand s snfp a explicit >>= fun v => readSfs s f g snfp l v.2 >>= fun r => pure (v.1 :: r.1, r.2)) pos := by
  have hlift : BitM.lift (explicitSf f g b) pos = .ok (explicit, pos) := by rw [h]; rfl
  rw [readSfs, bitM_bind_of_ok hlift]
  cases explicit with
  | true =>
    show (readSf s a pos >>= _) = ((readSf s a pos >>= _) >>= _)
    cases readSf s a pos <;> rfl
  | false =>
    cases snfp with
    | true =>
      show (readVlc s s.cfg.snfTable pos >>= _) = ((readVlc s s.cfg.snfTable pos >>= _) >>= _)
      cases readVlc s s.cfg.snfTable pos <;> rfl
    | false => rfl

theorem readSfs_of_not_scaled {l : List Nat} (h : ∀ explicit, ¬f.scaled g b explicit) :
    readSfs s f g snfp (b :: l) a pos = raise .illegalCommand := by
  rw [readSfs, explicitSf_of_not_scaled h]
  rfl

/-- What a band's codeword makes of the accumulators (42_spectral.md R218). -/
def bandValue (snfp : Bool) (a : SfAcc) (i : Bool × VlcEntry) : (Option Int × Option Int) × SfAcc :=
  match i with
  | (true, e) =>
    let v : Int := if a.first then e.sym else a.acc + e.sym - 60
    ((some v, none), ⟨false, v, a.snf⟩)
  | (false, e) =>
    let n : Int := if snfp then a.snf + e.sym - 60 else a.snf
    ((none, if snfp then some n else none), ⟨a.first, a.acc, n⟩)

/-- The bits of a band's codeword. -/
def bandBits (snfp first : Bool) (i : Bool × VlcEntry) : List Bool :=
  match i with
  | (true, e) => if first then bitsOf e.sym sfRefBits else codeBits e
  | (false, e) => if snfp then codeBits e else []

/-- A band's codeword is there to be read. -/
def bandReadable (p : Params) (snfp first : Bool) (i : Bool × VlcEntry) : Prop :=
  match i with
  | (true, e) => if first then e.sym < 2 ^ sfRefBits else e ∈ (p.vlcTable p.sfTable).getD []
  | (false, e) => snfp = true → e ∈ (p.vlcTable p.snfTable).getD []

/-- A scale factor is in range (42_spectral.md R218). -/
def inRange (v : Option Int) : Prop := ∀ n, v = some n → 0 ≤ n ∧ n ≤ 255

section
variable {i : Bool × VlcEntry} {l : List (Bool × VlcEntry)}

theorem sfValues_cons : sfValues snfp a (i :: l) =
    ((bandValue snfp a i).1 :: (sfValues snfp (bandValue snfp a i).2 l).1,
      (sfValues snfp (bandValue snfp a i).2 l).2) := by
  obtain ⟨explicit, e⟩ := i
  cases explicit <;> rfl

theorem sfBits_cons : sfBits snfp a.first (i :: l) =
    bandBits snfp a.first i ++ sfBits snfp (bandValue snfp a i).2.first l := by
  obtain ⟨explicit, e⟩ := i
  cases explicit <;> rfl

theorem sfReadable_cons {q : Params} :
    sfReadable ((q.vlcTable q.sfTable).getD []) ((q.vlcTable q.snfTable).getD []) snfp a.first (i :: l) ↔
      bandReadable q snfp a.first i ∧
        sfReadable ((q.vlcTable q.sfTable).getD []) ((q.vlcTable q.snfTable).getD []) snfp
          (bandValue snfp a i).2.first l := by
  obtain ⟨explicit, e⟩ := i
  cases explicit <;> rfl

end

/-! ### The bits of a band -/

theorem vlcLegal_of_parametersLegal (hp : parametersLegal s.cfg = true) (ht : s.cfg.vlcTable table = some tab) :
    vlcLegal tab = true := by
  simp only [parametersLegal, Bool.and_eq_true, List.all_eq_true] at hp
  obtain ⟨l, l', hl, -⟩ := List.lookup_eq_some_iff.1 ht
  exact hp.1 (table, tab) (by rw [hl]; simp)

/-- A codeword of a table the parameters may not define. -/
theorem spells_readVlc_getD (hp : parametersLegal s.cfg = true) (he : e ∈ (s.cfg.vlcTable table).getD []) :
    Spells s (readVlc s table) (codeBits e) e.sym := by
  cases ht : s.cfg.vlcTable table with
  | none => simp [ht] at he
  | some tab =>
    rw [ht] at he
    exact spells_readVlc ht (vlcLegal_of_parametersLegal hp ht) he

/-- The value of a scale factor, absolute or a difference, before its check. -/
theorem spells_readSfValue (hp : parametersLegal s.cfg = true) (hr : bandReadable s.cfg snfp a.first (true, e)) :
    Spells s (readSfValue s a) (bandBits snfp a.first (true, e)) (if a.first then e.sym else a.acc + e.sym - 60) := by
  rw [readSfValue]
  cases hfirst : a.first with
  | true =>
    rw [hfirst] at hr
    exact spells_map (g := fun n : Nat => (n : Int)) (spells_readBits hr)
  | false =>
    rw [hfirst] at hr
    exact spells_map (g := fun n : Nat => a.acc + n - 60) (spells_readVlc_getD hp hr)

theorem spells_readSf (hp : parametersLegal s.cfg = true) (hr : bandReadable s.cfg snfp a.first (true, e))
    (hrange : inRange (bandValue snfp a (true, e)).1.1) :
    Spells s (readSf s a) (bandBits snfp a.first (true, e)) (bandValue snfp a (true, e)).2 := by
  obtain ⟨hlo, hhi⟩ := hrange _ rfl
  have h := spells_bind (f := fun v : Int =>
    if v < 0 ∨ sfMax < v then BitM.stop .outOfRange else pure { a with first := false, acc := v })
    (spells_readSfValue hp hr) (by rw [if_neg (by rw [sfMax]; omega)]; exact spells_pure)
  rwa [List.append_nil] at h

theorem spells_readBand {i : Bool × VlcEntry} (hp : parametersLegal s.cfg = true)
    (hr : bandReadable s.cfg snfp a.first i) (hrange : inRange (bandValue snfp a i).1.1) :
    Spells s (readBand s snfp a i.1) (bandBits snfp a.first i) (bandValue snfp a i) := by
  obtain ⟨explicit, e⟩ := i
  cases explicit with
  | true =>
    exact spells_map (g := fun a : SfAcc => ((some a.acc, (none : Option Int)), a)) (spells_readSf hp hr hrange)
  | false =>
    cases snfp with
    | true =>
      exact spells_map (g := fun n : Nat => (((none : Option Int), some (a.snf + n - 60)),
        { a with snf := a.snf + n - 60 })) (spells_readVlc_getD hp (hr rfl))
    | false => exact spells_pure

/-! ### How a band fails -/

theorem readBand_of_no_value (hfirst : a.first = true) (hend : s.bitlen.toNat < p + 8) :
    readBand s snfp a true p = raise .truncated := by
  have hvalue : readSfValue s a p = raise .truncated := by
    rw [readSfValue, if_pos hfirst]
    exact bitM_bind_of_raise (readBits_of_lt hend)
  exact bitM_bind_of_raise (bitM_bind_of_raise hvalue)

theorem readBand_of_out_of_range (hp : parametersLegal s.cfg = true) (hfirst : a.first = false)
    (he : e ∈ (s.cfg.vlcTable s.cfg.sfTable).getD []) (hheld : s.holdsBits p (codeBits e))
    (hout : a.acc + e.sym - 60 < 0 ∨ 255 < a.acc + e.sym - 60) : readBand s snfp a true p = raise .outOfRange := by
  have hvalue := (spells_readSfValue (s := s) (snfp := snfp) (a := a) (e := e) hp (by rw [hfirst]; exact he) p).1
    (by rw [hfirst]; exact hheld)
  rw [hfirst] at hvalue
  refine bitM_bind_of_raise (e := .outOfRange) ?_
  rw [readSf, bitM_bind_of_ok hvalue]
  exact congrFun (if_pos hout) _

/-- Band `explicit` reads a codeword of the table `id`: of SF_TABLE for a difference, of SNF_TABLE for a noise-fill value
(42_spectral.md R218). -/
def readsTable (s : State) (snfp : Bool) (a : SfAcc) (explicit : Bool) (id : Nat) : Prop :=
  explicit = true ∧ a.first = false ∧ id = s.cfg.sfTable ∨ explicit = false ∧ snfp = true ∧ id = s.cfg.snfTable

theorem readBand_of_no_codeword {id : Nat} {x : FatalError} (hid : readsTable s snfp a explicit id)
    (h : readVlc s id p = raise x) : readBand s snfp a explicit p = raise x := by
  rcases hid with ⟨rfl, hfirst, rfl⟩ | ⟨rfl, rfl, rfl⟩
  · have hvalue : readSfValue s a p = raise x := by
      rw [readSfValue, if_neg (by simp [hfirst])]
      exact bitM_bind_of_raise h
    exact bitM_bind_of_raise (bitM_bind_of_raise hvalue)
  · exact bitM_bind_of_raise h

/-! ### Bands in a row -/

theorem length_sfValues {l : List (Bool × VlcEntry)} : (sfValues snfp a l).1.length = l.length := by
  induction l generalizing a with
  | nil => rfl
  | cons i l ih => rw [sfValues_cons, List.length_cons, List.length_cons, ih]

/-- Bands whose codewords lie at the cursor give their values before those of the bands behind them. -/
theorem readSfs_add {items : List (Bool × VlcEntry)} {m : Nat} (hp : parametersLegal s.cfg = true)
    (hscaled : ∀ (k : Nat) (h : k < items.length), f.scaled g (b + k) items[k].1)
    (hr : sfReadable ((s.cfg.vlcTable s.cfg.sfTable).getD []) ((s.cfg.vlcTable s.cfg.snfTable).getD []) snfp a.first
      items)
    (hheld : s.holdsBits pos (sfBits snfp a.first items))
    (hrange : ∀ v ∈ (sfValues snfp a items).1, inRange v.1) :
    readSfs s f g snfp (List.range' b (items.length + m)) a pos =
      (readSfs s f g snfp (List.range' (b + items.length) m) (sfValues snfp a items).2
        (pos + (sfBits snfp a.first items).length)).map
          fun r => (((sfValues snfp a items).1 ++ r.1.1, r.1.2), r.2) := by
  induction items generalizing a b pos with
  | nil =>
    simp only [List.length_nil, Nat.zero_add, Nat.add_zero, sfValues, sfBits, List.nil_append, Prod.mk.eta]
    exact (congrFun Except.map_id _).symm
  | cons i l ih =>
    obtain ⟨hi, hr⟩ := sfReadable_cons.1 hr
    rw [sfValues_cons] at hrange ⊢
    rw [sfBits_cons, holdsBits_append] at hheld
    obtain ⟨hband, hrest⟩ := hheld
    obtain ⟨hfirst, hlater⟩ := List.forall_mem_cons.1 hrange
    have hscaledLater (k : Nat) (h : k < l.length) : f.scaled g (b + 1 + k) l[k].1 := by
      have := hscaled (k + 1) (by simpa using h)
      rwa [List.getElem_cons_succ, show b + (k + 1) = b + 1 + k by omega] at this
    have hnow : f.scaled g b i.1 := hscaled 0 (Nat.succ_pos _)
    rw [sfBits_cons, List.length_cons, Nat.add_right_comm, List.range'_succ,
      readSfs_cons (explicitSf_ok_iff.2 hnow), bitM_bind_of_ok ((spells_readBand hp hi hfirst pos).1 hband), bitM_bind_pure, ih hscaledLater hr hrest hlater,
      List.length_append, ← Nat.add_assoc pos, show b + (l.length + 1) = b + 1 + l.length by omega]
    cases readSfs s f g snfp (List.range' (b + 1 + l.length) m) (sfValues snfp (bandValue snfp a i).2 l).2
      (pos + (bandBits snfp a.first i).length + (sfBits snfp (bandValue snfp a i).2.first l).length) <;> rfl

/-! ### SF -/

section
variable {c : Fin 8} {g : Fin 16}

theorem exec_sf (c g : BitVec 4) (snfp : Bool) (s : State) :
    exec (.sf c g snfp) s = s.command [c] (sfBody (slotOf c) (groupOf g) snfp) := rfl

/-- F[c] with the scale factors, the noise-fill values and the accumulators, less the stage (42_spectral.md R218). -/
def sfChan (s : State) (c : Fin 8) (g : Fin 16) (r : List (Option Int × Option Int) × SfAcc) : ChanFrame :=
  let f := s.chanAt c
  { f with
    sf := f.sf.put (indexed (64 * g.val) (r.1.map Prod.fst))
    snf := f.snf.put (indexed (64 * g.val) (r.1.map Prod.snd))
    sfFirst := some r.2.first
    sfAcc := some r.2.acc
    snfAcc := some r.2.snf }

/-- Behind its checks SF reads the bands and answers its state. -/
theorem sfBody_eq (hopen : s.requireGroup c g (sfStages g) = .ok ()) (hstart : sfStart s (s.chanAt c) g = .ok a) :
    sfBody c g snfp s =
      (readSfs s (s.chanAt c) g snfp (List.range' 0 ((s.wAt c).bands g)) a s.bitpos.toNat).map fun r =>
        chanWritten s c (BitVec.ofNat 32 r.2) (sfChan s c g r.1) (.sf g) := by
  unfold sfBody
  rw [hopen, ← List.range_eq_range']
  show (sfStart s (s.chanAt c) g >>= _) = _
  rw [hstart]
  show (readSfs s (s.chanAt c) g snfp (List.range ((s.wAt c).bands g)) a s.bitpos.toNat >>= _) = _
  cases readSfs s (s.chanAt c) g snfp (List.range ((s.wAt c).bands g)) a s.bitpos.toNat <;> rfl

end

/-- Fresh accumulators for group 0, else those the group before left (42_spectral.md R218). -/
theorem sfStart_eq {g : BitVec 4} (h0 : g = 0 → a = ⟨true, 0, s.cfg.snfInit⟩)
    (hlater : g ≠ 0 → f.sfFirst = some a.first ∧ f.sfAcc = some a.acc ∧ f.snfAcc = some a.snf) :
    sfStart s f (groupOf g).val = .ok a := by
  rw [sfStart]
  by_cases hg : g = 0
  · subst hg
    rw [h0 rfl]
    rfl
  · obtain ⟨hfirst, hacc, hsnf⟩ := hlater hg
    rw [if_neg (show ¬(groupOf g).val = 0 from fun h => hg (BitVec.eq_of_toNat_eq h)), hfirst, hacc, hsnf]
    rfl

theorem sfStages_done {g : BitVec 4} {c : Fin 8} (hspec : s.done c (.spec g.toFin) = true)
    (hprev : g ≠ 0 → s.done c (.sf (g - 1).toFin) = true) : (sfStages (groupOf g)).all (s.done c) = true := by
  rw [sfStages]
  split
  · simpa [groupOf] using hspec
  · next h =>
    have hg : g ≠ 0 := fun hg => h (by rw [hg]; rfl)
    rw [List.all_cons, List.all_cons, List.all_nil, Bool.and_true, Bool.and_eq_true]
    exact ⟨hspec, hprev hg⟩

/-- One array of the bands of a group, as SF writes it. -/
theorem at?_put_bands {t : Tab (Option Int) 1024} {g : BitVec 4} {vals : List (Option Int × Option Int)}
    {h : Option Int × Option Int → Option Int} (hlen : vals.length ≤ 64) :
    (∀ (b : Nat) (hb : b < vals.length), (t.put (indexed (64 * g.toNat) (vals.map h))).at? (64 * g.toNat + b) =
      some (h vals[b])) ∧
    t.sameBut (fun i => 64 * g.toNat ≤ i ∧ i < 64 * g.toNat + vals.length)
      (t.put (indexed (64 * g.toNat) (vals.map h))) := by
  have hput (i : Nat) := at?_put_indexed (t := t) (i := i) (b := 64 * g.toNat) (l := vals.map h)
    (by rw [List.length_map]; omega)
  rw [List.length_map] at hput
  refine ⟨fun b hb => ?_, fun i hi => (hput i).trans (if_neg hi)⟩
  rw [hput, if_pos ⟨by omega, by omega⟩, Nat.add_sub_cancel_left, List.getElem?_map, List.getElem?_eq_getElem hb]
  rfl

/-- Settles O47: the bands whose codewords are there read in order; where bands are left the next one fails its way. -/
theorem sfAccumulates : Obligations.SfAccumulates := by
  intro s c g snfp start items hs hc hcur hp x f ms tab noise hg hspec hprev hms hitems hscaled h0 hlater vals bits p
    hr hheld hrange
  have hopen := requireGroup_of_done (g := groupOf g) hs hg (sfStages_done hspec hprev)
  have hbody := sfBody_eq (snfp := snfp) hopen (sfStart_eq h0 hlater)
  have hread (m : Nat) (hm : items.length + m = ms) :
      readSfs s f g.toNat snfp (List.range' 0 ms) start s.bitpos.toNat =
        (readSfs s f g.toNat snfp (List.range' items.length m) vals.2 p).map
          fun r => ((vals.1 ++ r.1.1, r.1.2), r.2) := by
    have h := readSfs_add (b := 0) (m := m) hp (by simpa using hscaled) hr hheld hrange
    rwa [hm, Nat.zero_add] at h
  rw [exec_sf]
  refine ⟨fun hall => ?_, fun hlt => ?_⟩
  · have hok : readSfs s f g.toNat snfp (List.range' 0 ms) start s.bitpos.toNat = .ok (vals, p) := by
      rw [hread 0 hall]
      exact congrArg (fun l => Except.ok ((l, vals.2), p)) (List.append_nil _)
    have hlen : vals.1.length = ms := length_sfValues.trans hall
    obtain ⟨hsf, hsfKept⟩ := at?_put_bands (t := f.sf) (g := g) (vals := vals.1) (h := Prod.fst) (hlen.trans_le hms)
    obtain ⟨hsnf, hsnfKept⟩ := at?_put_bands (t := f.snf) (g := g) (vals := vals.1) (h := Prod.snd) (hlen.trans_le hms)
    rw [hlen] at hsfKept hsnfKept
    refine ⟨_, command_of_body_ok hs hc (hbody.trans (congrArg _ hok)), chanWritten_endsOn, ⟨rfl, rfl, rfl⟩, rfl,
      toNat_ofNat_of_le hheld.1, ?_, chanWritten_doneAdds rfl, ?_⟩ <;> rw [chanWritten_chanAt]
    · rfl
    · exact ⟨fun b hb => ⟨hsf b hb, hsnf b hb⟩, hlen, hsfKept, hsnfKept⟩
  · obtain ⟨k, hk⟩ : ∃ k, ms - items.length = k + 1 := ⟨ms - items.length - 1, by omega⟩
    have hrest := hread (k + 1) (by omega)
    rw [List.range'_succ] at hrest
    have hraise {e : FatalError}
        (h : readSfs s f g.toNat snfp (items.length :: List.range' (items.length + 1) k) vals.2 p = raise e) :
        s.command [c] (sfBody x (groupOf g) snfp) = .next (s.failedWith e.code) :=
      command_of_body_raise hs hc (hbody.trans (congrArg _ (hrest.trans (congrArg _ h))))
    have hband {explicit : Bool} {e : FatalError} (hscaledNext : f.scaled g.toNat items.length explicit)
        (h : readBand s snfp vals.2 explicit p = raise e) :
        s.command [c] (sfBody x (groupOf g) snfp) = .next (s.failedWith e.code) :=
      hraise ((readSfs_cons (explicitSf_ok_iff.2 hscaledNext)).trans (bitM_bind_of_raise h))
    refine ⟨fun hno => hraise (e := .illegalCommand) (readSfs_of_not_scaled hno),
      fun hnext hfirst hend => hband (e := .truncated) hnext (readBand_of_no_value hfirst hend),
      fun hnext hfirst e he hcode hout =>
        hband (e := .outOfRange) hnext (readBand_of_out_of_range hp hfirst he hcode hout), fun id hid => ?_⟩
    obtain ⟨explicit, hnext, htable⟩ : ∃ explicit, f.scaled g.toNat items.length explicit ∧
        readsTable s snfp vals.2 explicit id := by
      rcases hid with ⟨hnext, hfirst, hid⟩ | ⟨hnext, hsnfp, hid⟩
      · exact ⟨true, hnext, .inl ⟨rfl, hfirst, hid⟩⟩
      · exact ⟨false, hnext, .inr ⟨rfl, hsnfp, hid⟩⟩
    have hvlc {e : FatalError} (h : readVlc s id p = raise e) := hband hnext (readBand_of_no_codeword htable h)
    refine ⟨fun hnone => hvlc (e := .illegalCommand) (readVlc_of_none hnone), fun t ht => ?_⟩
    have hl := vlcLegal_of_parametersLegal hp ht
    exact ⟨fun h => hvlc (e := .malformedCode) ((readVlc_of_legal ht hl).trans (readVlcFrom_of_malformedAt hl h)),
      fun h => hvlc (e := .truncated)
        ((readVlc_of_legal ht hl).trans (readVlcFrom_of_truncatedAt hl hheld.1 h))⟩

end Sys2Proof.Proofs

/-! STEREO (43_stereo_imdct.md R250 to R253). What one band selects and computes; the loops over bands and groups as one
walk whose running sum is a function of the band, up to the first band that is not fine; then the coefficients written. -/

namespace Sys2Proof.Proofs

open Sys2Proof Sys2Proof.Machine Sys2Proof.Laws Sys2Proof.Config

variable {s : State} {c c2 : Fin 8} {g b n k : Nat} {alpha : Real32}

/-! ### Lists -/

/-- `mapE` raises where an entry of the list does, if no entry stops for another reason. -/
theorem mapE_of_raise {α β : Type} {e : FatalError} {f : α → Except Stop β} {l : List α} {a : α}
    (hl : ∀ a ∈ l, StopsOnlyWith e (f a)) (ha : a ∈ l) (hf : f a = raise e) : mapE f l = raise e := by
  induction l with
  | nil => cases ha
  | cons a' l ih =>
    rw [mapE]
    cases hhead : f a' with
    | error x => rw [hl a' List.mem_cons_self x hhead]; rfl
    | ok v =>
      have htail : a ∈ l := by
        rcases List.mem_cons.1 ha with rfl | ha
        · rw [hf] at hhead
          cases hhead
        · exact ha
      rw [ih (fun a ha => hl a (List.mem_cons_of_mem a' ha)) htail]
      rfl

theorem range_eq_append (h : g < n) : ∃ l, List.range n = List.range g ++ g :: l := by
  obtain ⟨m, rfl⟩ := Nat.exists_eq_add_of_lt h
  refine ⟨(List.range m).map (g + 1 + ·), ?_⟩
  rw [show g + m + 1 = g + 1 + m by omega, List.range_add, List.range_succ, List.append_assoc]
  rfl

/-! ### The running sum -/

/-- The running sum before band `b` of group `g`: 0 in a mode that has none (43_stereo_imdct.md R252). -/
def sumBefore (s : State) (c : Fin 8) (g b : Nat) : Int :=
  if s.simWord c Sim.stMode = 3 then s.alphaStart c g + ((List.range b).map (s.alphaStep c g)).sum else 0

/-- The running sum the groups before `g` leave. -/
def sumCarried (s : State) (c : Fin 8) : Nat → Int
  | 0 => 0
  | g + 1 => sumBefore s c g ((s.wAt c).bands g)

theorem sumBefore_of_three (h : s.simWord c Sim.stMode = 3) :
    sumBefore s c g b = s.alphaStart c g + ((List.range b).map (s.alphaStep c g)).sum := if_pos h

theorem sumBefore_of_not_three (h : s.simWord c Sim.stMode ≠ 3) : sumBefore s c g b = 0 := if_neg h

theorem alphaStartOf_sumCarried (g : Nat) : alphaStartOf (s.wAt c) g (sumCarried s c g) = sumBefore s c g 0 := by
  cases g with
  | zero => simp [alphaStartOf, sumBefore, State.alphaStart]
  | succ g =>
    by_cases hmode : s.simWord c Sim.stMode = 3
    · by_cases hsame : (s.wAt c).bands (g + 1) = (s.wAt c).bands g <;>
        simp [alphaStartOf, sumCarried, sumBefore_of_three hmode, State.alphaStart, hsame]
    · simp [alphaStartOf, sumCarried, sumBefore_of_not_three hmode]

theorem sumBefore_succ (h : s.simWord c Sim.stMode = 3) :
    sumBefore s c g (b + 1) = sumBefore s c g b + (s.simWord c (Sim.stAlphaSym g b) - 60) := by
  simp [sumBefore_of_three h, State.alphaStep, List.range_succ, Int.add_assoc]

/-! ### What a band selects -/

section
variable {acc : Int}

theorem stereoSelect_zero : stereoSelect s c 0 g b acc = .ok (acc, none) := rfl

theorem stereoSelect_one : stereoSelect s c 1 g b acc = .ok (acc, some 0) := rfl

theorem stereoSelect_two : stereoSelect s c 2 g b acc = (msSelect (s.simWord c (Sim.stMsused g b))).map (acc, ·) := rfl

theorem stereoSelect_three_of_nonneg (h : 0 ≤ s.simWord c (Sim.stAlphaSym g b)) :
    stereoSelect s c 3 g b acc = .ok (acc + (s.simWord c (Sim.stAlphaSym g b) - 60),
      some (R32.mul (R32.ofInt (acc + (s.simWord c (Sim.stAlphaSym g b) - 60))) (R32.ofRat 1 10))) := by
  have hcheck : require (decide (0 ≤ s.simWord c (Sim.stAlphaSym g b))) .invalidBlockConfig = .ok () :=
    require_ok.2 (decide_eq_true h)
  show (require _ _ >>= _) = _
  rw [hcheck]
  rfl

theorem stereoSelect_three_of_neg (h : s.simWord c (Sim.stAlphaSym g b) < 0) :
    stereoSelect s c 3 g b acc = raise .invalidBlockConfig := by
  show (require (decide (0 ≤ s.simWord c (Sim.stAlphaSym g b))) _ >>= _) = _
  rw [decide_eq_false (Int.not_le.2 h)]
  rfl

theorem stereoSelect_of_bad (hbad : s.stereoBad c g b) :
    stereoSelect s c (s.simWord c Sim.stMode) g b acc = raise .invalidBlockConfig := by
  rcases hbad with ⟨hmode, hzero, hone⟩ | ⟨hmode, hneg⟩
  · rw [hmode, stereoSelect_two, msSelect, if_neg hzero, if_neg hone]
    rfl
  · rw [hmode, stereoSelect_three_of_neg hneg]

/-- A good band selects its matrix and moves the running sum on. -/
theorem stereoSelect_of_good (hlo : 0 ≤ s.simWord c Sim.stMode) (hhi : s.simWord c Sim.stMode ≤ 3)
    (hgood : ¬s.stereoBad c g b) :
    stereoSelect s c (s.simWord c Sim.stMode) g b (sumBefore s c g b) =
      .ok (sumBefore s c g (b + 1), s.stereoChoice c g b) := by
  have hmode : s.simWord c Sim.stMode = 0 ∨ s.simWord c Sim.stMode = 1 ∨ s.simWord c Sim.stMode = 2 ∨
      s.simWord c Sim.stMode = 3 := by omega
  rcases hmode with hmode | hmode | hmode | hmode
  · rw [sumBefore_of_not_three (by omega), sumBefore_of_not_three (by omega), hmode, stereoSelect_zero,
      State.stereoChoice, if_pos hmode]
  · rw [sumBefore_of_not_three (by omega), sumBefore_of_not_three (by omega), hmode, stereoSelect_one]
    simp [State.stereoChoice, hmode]
  · rw [sumBefore_of_not_three (by omega), sumBefore_of_not_three (by omega), hmode, stereoSelect_two, msSelect]
    have hflag : s.simWord c (Sim.stMsused g b) = 0 ∨ s.simWord c (Sim.stMsused g b) = 1 := by
      by_contra h
      exact hgood (.inl ⟨hmode, not_or.1 h⟩)
    rcases hflag with hflag | hflag <;> simp [State.stereoChoice, hmode, hflag, Except.map]
  · have hsym : 0 ≤ s.simWord c (Sim.stAlphaSym g b) := Int.not_lt.1 fun h => hgood (.inr ⟨hmode, h⟩)
    have hchoice : s.stereoChoice c g b = some (s.alpha c g b) := by simp [State.stereoChoice, hmode]
    rw [hmode, stereoSelect_three_of_nonneg hsym, ← sumBefore_succ hmode, hchoice, State.alpha, sumBefore_of_three hmode]

end

/-! ### What a band computes -/

/-- The new coefficients at sample `k`, where the old ones exist. -/
def matrixOf (f f2 : ChanFrame) (alpha : Real32) (k : Nat) : Real32 × Real32 :=
  stereoMatrix alpha ((f.coef.at? k).getD 0) ((f2.coef.at? k).getD 0)

/-- The new coefficients of band (g, b), where the old ones exist. -/
def bandOutput (s : State) (c c2 : Fin 8) (g b : Nat) : List (Nat × Real32 × Real32) :=
  match s.stereoChoice c g b with
  | none => []
  | some alpha => ((s.wAt c).samples g b).map fun k => (k, matrixOf (s.chanAt c) (s.chanAt c2) alpha k)

theorem mem_bandOutput {v : Real32 × Real32} : (k, v) ∈ bandOutput s c c2 g b ↔
    ∃ alpha, s.stereoChoice c g b = some alpha ∧ (s.wAt c).mapAt k = some (g, b) ∧
      v = matrixOf (s.chanAt c) (s.chanAt c2) alpha k := by
  unfold bandOutput
  cases s.stereoChoice c g b with
  | none => simp
  | some alpha =>
    simp only [List.mem_map, mem_samples, Prod.mk.injEq, Option.some.injEq, exists_eq_left']
    exact ⟨fun ⟨_, hk, rfl, hv⟩ => ⟨hk, hv.symm⟩, fun ⟨hk, hv⟩ => ⟨k, hk, rfl, hv.symm⟩⟩

/-- The coefficient of a sample of a band that is not missing one. -/
theorem coef_of_not_missing (h : ¬s.stereoMissing c c2 g b) (hsel : s.stereoChoice c g b = some alpha)
    (hk : (s.wAt c).mapAt k = some (g, b)) :
    ∃ a d, (s.chanAt c).coef.at? k = some a ∧ (s.chanAt c2).coef.at? k = some d := by
  have hlt := lt_of_mem_samples (mem_samples.2 hk)
  have hvals : ¬((s.chanAt c).coef.at? k = none ∨ (s.chanAt c2).coef.at? k = none) := fun hnone =>
    h ⟨by rw [hsel]; rfl, k, hlt, hk, hnone⟩
  obtain ⟨ha, hd⟩ := not_or.1 hvals
  exact ⟨_, _, Option.eq_some_of_isSome (Option.isSome_iff_ne_none.2 ha),
    Option.eq_some_of_isSome (Option.isSome_iff_ne_none.2 hd)⟩

theorem stereoBand_of_not_missing (h : ¬s.stereoMissing c c2 g b) :
    stereoBand (s.chanAt c) (s.chanAt c2) (s.stereoChoice c g b) ((s.wAt c).samples g b) =
      .ok (bandOutput s c c2 g b) := by
  unfold stereoBand bandOutput
  cases hsel : s.stereoChoice c g b with
  | none => rfl
  | some alpha =>
    refine mapE_of_forall fun k hk => ?_
    obtain ⟨a, d, ha, hd⟩ := coef_of_not_missing h hsel (mem_samples.1 hk)
    rw [Tab.get, Tab.get, matrixOf, ha, hd]
    rfl

theorem stereoBand_of_missing (h : s.stereoMissing c c2 g b) :
    stereoBand (s.chanAt c) (s.chanAt c2) (s.stereoChoice c g b) ((s.wAt c).samples g b) = raise .illegalCommand := by
  obtain ⟨hsel, k, -, hk, hnone⟩ := h
  obtain ⟨alpha, hsel⟩ := Option.isSome_iff_exists.1 hsel
  rw [hsel]
  refine mapE_of_raise (fun _ _ => stopsOnlyWith_bind (stopsOnlyWith_valueOf _) fun _ _ =>
    stopsOnlyWith_bind (stopsOnlyWith_valueOf _) fun _ _ => stopsOnlyWith_pure _ _) (mem_samples.2 hk) ?_
  cases ha : (s.chanAt c).coef.at? k with
  | none => rw [Tab.get, ha]; rfl
  | some a =>
    have hd := hnone.resolve_left (by rw [ha]; exact nofun)
    rw [Tab.get, Tab.get, ha, hd]
    rfl

/-! ### Bands and groups in order -/

/-- Band (g, b) has a legal flag or symbol and, where a matrix is selected, its coefficients. -/
def bandFine (s : State) (c c2 : Fin 8) (g b : Nat) : Prop := ¬s.stereoBad c g b ∧ ¬s.stereoMissing c c2 g b

/-- The new coefficients of the first `n` bands of a group. -/
def bandsOutput (s : State) (c c2 : Fin 8) (g n : Nat) : List (Nat × Real32 × Real32) :=
  (List.range n).flatMap (bandOutput s c c2 g)

/-- The new coefficients of the first `n` groups. -/
def groupsOutput (s : State) (c c2 : Fin 8) (n : Nat) : List (Nat × Real32 × Real32) :=
  (List.range n).flatMap fun g => bandsOutput s c c2 g ((s.wAt c).bands g)

theorem bandsOutput_succ : bandsOutput s c c2 g (n + 1) = bandsOutput s c c2 g n ++ bandOutput s c c2 g n := by
  rw [bandsOutput, List.range_succ, List.flatMap_append, List.flatMap_singleton, bandsOutput]

theorem groupsOutput_succ :
    groupsOutput s c c2 (n + 1) = groupsOutput s c c2 n ++ bandsOutput s c c2 n ((s.wAt c).bands n) := by
  rw [groupsOutput, List.range_succ, List.flatMap_append, List.flatMap_singleton, groupsOutput]

section
variable (hlo : 0 ≤ s.simWord c Sim.stMode) (hhi : s.simWord c Sim.stMode ≤ 3) {l : List Nat} {e : FatalError}
include hlo hhi

theorem stereoBands_cons_of_fine (h : bandFine s c c2 g b) :
    stereoBands s c c2 (s.simWord c Sim.stMode) g (b :: l) (sumBefore s c g b) =
      (stereoBands s c c2 (s.simWord c Sim.stMode) g l (sumBefore s c g (b + 1))).map
        fun r => (r.1, bandOutput s c c2 g b ++ r.2) := by
  obtain ⟨hgood, hthere⟩ := h
  rw [stereoBands, stereoSelect_of_good hlo hhi hgood]
  show (stereoBand _ _ _ _ >>= _) = _
  rw [stereoBand_of_not_missing hthere]
  rfl

theorem stereoBands_cons_of_missing (hgood : ¬s.stereoBad c g b) (h : s.stereoMissing c c2 g b) :
    stereoBands s c c2 (s.simWord c Sim.stMode) g (b :: l) (sumBefore s c g b) = raise .illegalCommand := by
  rw [stereoBands, stereoSelect_of_good hlo hhi hgood]
  show (stereoBand _ _ _ _ >>= _) = _
  rw [stereoBand_of_missing h]
  rfl

omit hlo hhi in
theorem stereoBands_cons_of_bad (h : s.stereoBad c g b) :
    stereoBands s c c2 (s.simWord c Sim.stMode) g (b :: l) (sumBefore s c g b) = raise .invalidBlockConfig := by
  rw [stereoBands, stereoSelect_of_bad h]
  rfl

/-- The first `n` bands of a group, if they are fine, give their coefficients and go on. -/
theorem stereoBands_append (h : ∀ b < n, bandFine s c c2 g b) :
    stereoBands s c c2 (s.simWord c Sim.stMode) g (List.range n ++ l) (sumBefore s c g 0) =
      (stereoBands s c c2 (s.simWord c Sim.stMode) g l (sumBefore s c g n)).map
        fun r => (r.1, bandsOutput s c c2 g n ++ r.2) := by
  induction n generalizing l with
  | zero => exact (congrFun Except.map_id _).symm
  | succ n ih =>
    rw [List.range_succ, List.append_assoc, ih fun b hb => h b (by omega), List.singleton_append,
      stereoBands_cons_of_fine hlo hhi (h n (by omega)), bandsOutput_succ]
    cases stereoBands s c c2 (s.simWord c Sim.stMode) g l (sumBefore s c g (n + 1)) with
    | error x => rfl
    | ok r => simp [Except.map]

theorem stereoBands_of_fine (h : ∀ b < (s.wAt c).bands g, bandFine s c c2 g b) :
    stereoBands s c c2 (s.simWord c Sim.stMode) g (List.range ((s.wAt c).bands g)) (sumBefore s c g 0) =
      .ok (sumCarried s c (g + 1), bandsOutput s c c2 g ((s.wAt c).bands g)) := by
  have happend := stereoBands_append hlo hhi (l := []) h
  rw [List.append_nil] at happend
  rw [happend, stereoBands]
  simp [Except.map, sumCarried]

/-- The first `n` groups, if their bands are fine, give their coefficients and go on. -/
theorem stereoGroups_append (h : ∀ g < n, ∀ b < (s.wAt c).bands g, bandFine s c c2 g b) :
    stereoGroups s c c2 (s.simWord c Sim.stMode) (List.range n ++ l) 0 =
      (stereoGroups s c c2 (s.simWord c Sim.stMode) l (sumCarried s c n)).map (groupsOutput s c c2 n ++ ·) := by
  induction n generalizing l with
  | zero => exact (congrFun Except.map_id _).symm
  | succ n ih =>
    rw [List.range_succ, List.append_assoc, ih fun g hg => h g (by omega), List.singleton_append, stereoGroups,
      alphaStartOf_sumCarried, stereoBands_of_fine hlo hhi (h n (by omega)), groupsOutput_succ]
    show Except.map _ (stereoGroups s c c2 (s.simWord c Sim.stMode) l (sumCarried s c (n + 1)) >>= _) = _
    cases stereoGroups s c c2 (s.simWord c Sim.stMode) l (sumCarried s c (n + 1)) with
    | error x => rfl
    | ok r => exact congrArg Except.ok (List.append_assoc _ _ _).symm

theorem stereoGroups_of_fine (h : ∀ g < n, ∀ b < (s.wAt c).bands g, bandFine s c c2 g b) :
    stereoGroups s c c2 (s.simWord c Sim.stMode) (List.range n) 0 = .ok (groupsOutput s c c2 n) := by
  have happend := stereoGroups_append hlo hhi (l := []) h
  rw [List.append_nil] at happend
  rw [happend, stereoGroups]
  simp [Except.map]

/-- The first band that raises decides. -/
theorem stereoGroups_of_raise (hg : g < n) (hb : b < (s.wAt c).bands g)
    (h : ∀ h ≤ g, ∀ k < (s.wAt c).bands h, h < g ∨ k < b → bandFine s c c2 h k)
    (hraise : ∀ l, stereoBands s c c2 (s.simWord c Sim.stMode) g (b :: l) (sumBefore s c g b) = raise e) :
    stereoGroups s c c2 (s.simWord c Sim.stMode) (List.range n) 0 = raise e := by
  obtain ⟨groups, hgroups⟩ := range_eq_append hg
  obtain ⟨bands, hbands⟩ := range_eq_append hb
  have hgroupsFine : ∀ h' < g, ∀ k < (s.wAt c).bands h', bandFine s c c2 h' k := fun h' hlt k hk =>
    h h' hlt.le k hk (.inl hlt)
  have hbandsFine : ∀ k < b, bandFine s c c2 g k := fun k hk => h g le_rfl k (hk.trans hb) (.inr hk)
  rw [hgroups, stereoGroups_append hlo hhi hgroupsFine, stereoGroups, alphaStartOf_sumCarried, hbands,
    stereoBands_append hlo hhi hbandsFine, hraise]
  rfl

end

/-! ### The coefficients written -/

/-- Sample `k` is in a band that the matrix with `alpha` is selected for. -/
def matrixAt (s : State) (c : Fin 8) (k : Nat) (alpha : Real32) : Prop :=
  k < 2048 ∧ ∃ g b, (s.wAt c).mapAt k = some (g, b) ∧ g < (s.wAt c).ngroups ∧ b < (s.wAt c).bands g ∧
    s.stereoChoice c g b = some alpha

/-- Every new coefficient of STEREO. -/
def stereoOutput (s : State) (c c2 : Fin 8) : List (Nat × Real32 × Real32) := groupsOutput s c c2 (s.wAt c).ngroups

theorem mem_stereoOutput {v : Real32 × Real32} : (k, v) ∈ stereoOutput s c c2 ↔
    ∃ alpha, matrixAt s c k alpha ∧ v = matrixOf (s.chanAt c) (s.chanAt c2) alpha k := by
  simp only [stereoOutput, groupsOutput, bandsOutput, List.mem_flatMap, List.mem_range, mem_bandOutput]
  constructor
  · rintro ⟨g, hg, b, hb, alpha, hsel, hk, rfl⟩
    exact ⟨alpha, ⟨lt_of_mem_samples (mem_samples.2 hk), g, b, hk, hg, hb, hsel⟩, rfl⟩
  · rintro ⟨alpha, ⟨-, g, b, hk, hg, hb, hsel⟩, rfl⟩
    exact ⟨g, hg, b, hb, alpha, hsel, hk, rfl⟩

theorem matrixAt_unique {beta : Real32} (ha : matrixAt s c k alpha) (hb : matrixAt s c k beta) : alpha = beta := by
  obtain ⟨-, g, b, hk, -, -, hsel⟩ := ha
  obtain ⟨-, g', b', hk', -, -, hsel'⟩ := hb
  obtain ⟨rfl, rfl⟩ := Prod.mk.inj (Option.some.inj (hk.symm.trans hk'))
  exact Option.some.inj (hsel.symm.trans hsel')

/-- A channel's coefficients after STEREO: `part` is the channel's half of the new values. -/
def stereoCoef (s : State) (c c2 : Fin 8) (part : Real32 × Real32 → Real32) (t : Tab Real32 2048) : Tab Real32 2048 :=
  t.put ((stereoOutput s c c2).map fun e => (e.1, part e.2))

section
variable {part : Real32 × Real32 → Real32} {t : Tab Real32 2048}

theorem mem_stereoCoef {v : Real32} : (k, v) ∈ (stereoOutput s c c2).map (fun e => (e.1, part e.2)) ↔
    ∃ alpha, matrixAt s c k alpha ∧ v = part (matrixOf (s.chanAt c) (s.chanAt c2) alpha k) := by
  rw [List.mem_map]
  constructor
  · rintro ⟨⟨k', w⟩, hmem, heq⟩
    obtain ⟨rfl, rfl⟩ := Prod.mk.inj heq
    obtain ⟨alpha, hm, rfl⟩ := mem_stereoOutput.1 hmem
    exact ⟨alpha, hm, rfl⟩
  · rintro ⟨alpha, hm, rfl⟩
    exact ⟨(k, _), mem_stereoOutput.2 ⟨alpha, hm, rfl⟩, rfl⟩

theorem stereoCoef_of_matrixAt (h : matrixAt s c k alpha) :
    (stereoCoef s c c2 part t).at? k = some (part (matrixOf (s.chanAt c) (s.chanAt c2) alpha k)) := by
  refine at?_put_of_mem h.1 (mem_stereoCoef.2 ⟨alpha, h, rfl⟩) fun w hw => ?_
  obtain ⟨beta, hbeta, rfl⟩ := mem_stereoCoef.1 hw
  rw [matrixAt_unique h hbeta]

theorem stereoCoef_of_no_matrix (h : ¬∃ alpha, matrixAt s c k alpha) : (stereoCoef s c c2 part t).at? k = t.at? k := by
  refine at?_put_of_not_mem fun v hv => h ?_
  obtain ⟨alpha, hm, -⟩ := mem_stereoCoef.1 hv
  exact ⟨alpha, hm⟩

end

/-! ### The state -/

/-- F[c] of every slot <- `chan`: how a command that writes F[c] alone changes the state. -/
def chansWritten (s : State) (chan : Vector ChanFrame 8) : State := { s with chan := chan }

section
variable {chan : Vector ChanFrame 8}

theorem chansWritten_endsOn {cs : List (Fin 8)} (h : ∀ d, d ∉ cs → chan.get d = s.chanAt d) :
    endsOn cs s (chansWritten s chan).ended :=
  ⟨⟨hostSideKept_refl s, ⟨rfl, rfl, rfl, rfl, rfl⟩, fun d hd => ⟨rfl, h d hd⟩, rfl⟩, rfl⟩

theorem chansWritten_gridsKept : gridsKept s (chansWritten s chan).ended := ⟨rfl, rfl, rfl⟩

theorem chansWritten_bitpos : (chansWritten s chan).ended.bitpos = s.bitpos := rfl

theorem chansWritten_wAt : (chansWritten s chan).ended.wAt c = s.wAt c := rfl

theorem chansWritten_chanAt : (chansWritten s chan).ended.chanAt c = chan.get c := rfl

end

/-- F[z] with coefficients and the stage STEREO. -/
def stereoChan (f : ChanFrame) (coef : Tab Real32 2048) : ChanFrame := { f with coef := coef, done := f.done.add .stereo }

/-- F[c] and F[c2] with the coefficients and the stage, in the order of the pseudocode (43_stereo_imdct.md R250). -/
def stereoFrames (s : State) (c c2 : Fin 8) (coef coef2 : Tab Real32 2048) : Vector ChanFrame 8 :=
  ((((s.setChan c { s.chanAt c with coef := coef }).setChan c2 { s.chanAt c2 with coef := coef2 }).markDone c
    .stereo).markDone c2 .stereo).chan

section
variable {coef coef2 : Tab Real32 2048}

theorem stereoFrames_get_other {d : Fin 8} (hd : d ≠ c) (hd2 : d ≠ c2) :
    (stereoFrames s c c2 coef coef2).get d = s.chanAt d := by
  rw [stereoFrames, ← State.chanAt, chanAt_markDone_other _ c2 d _ hd2, chanAt_markDone_other _ c d _ hd,
    chanAt_setChan_other _ c2 d _ hd2, chanAt_setChan_other _ c d _ hd]

theorem stereoFrames_get_first (h : c ≠ c2) :
    (stereoFrames s c c2 coef coef2).get c = stereoChan (s.chanAt c) coef := by
  rw [stereoFrames, ← State.chanAt, chanAt_markDone_other _ c2 c _ h, chanAt_markDone, chanAt_setChan_other _ c2 c _ h,
    chanAt_setChan]
  rfl

theorem stereoFrames_get_second (h : c ≠ c2) :
    (stereoFrames s c c2 coef coef2).get c2 = stereoChan (s.chanAt c2) coef2 := by
  rw [stereoFrames, ← State.chanAt, chanAt_markDone, chanAt_markDone_other _ c c2 _ h.symm, chanAt_setChan]
  rfl

theorem stereoChan_doneAdds {f : ChanFrame} : doneAdds .stereo f.done (stereoChan f coef).done := doneAdds_add _ _

end

/-! ### STEREO -/

theorem exec_stereo (c c2 : BitVec 4) (s : State) :
    exec (.stereo c c2) s = s.command [c, c2] (stereoBody (slotOf c) (slotOf c2)) := rfl

/-- With two legal slots in a running frame, STEREO is its own pseudocode. -/
theorem exec_stereo_eq_finish {c c2 : BitVec 4} (hs : s.running) (hc : c.toNat < 8) (hc2 : c2.toNat < 8) :
    exec (.stereo c c2) s = s.finish (stereoBody (slotOf c) (slotOf c2) s) := by
  simp [exec_stereo, State.command, slotOk_eq_true hc, slotOk_eq_true hc2, failedFrame_of_running hs]

theorem slotOf_ne {c c2 : BitVec 4} (hc : c.toNat < 8) (hc2 : c2.toNat < 8) (h : c ≠ c2) : slotOf c ≠ slotOf c2 := by
  intro he
  rw [eq_slotOf_iff hc2] at he
  exact h (BitVec.eq_of_toNat_eq ((Nat.mod_eq_of_lt hc).symm.trans he))

/-- The pair's layouts are equal (43_stereo_imdct.md R250). -/
theorem layoutsAgree_iff {x y : ChannelState} : layoutsAgree x y = true ↔
    x.ngroups = y.ngroups ∧ x.wins = y.wins ∧ ∀ g < x.ngroups, x.bands g = y.bands g := by
  simp [layoutsAgree, and_assoc]

theorem requireStereo_of_ready (hdeq : s.allDequantized c = true) (hstereo : s.done c .stereo = false)
    (himdct : s.done c .imdct = false) : s.requireStereo c = .ok () := by
  rw [State.requireStereo, hdeq, hstereo, himdct]
  rfl

theorem stereoBody_of_equal (hopen : s.status.fopen = true) : stereoBody c c s = raise .illegalCommand := by
  rw [stereoBody, (requireOpen_ok (u := ())).2 hopen, decide_eq_false fun h => h rfl]
  rfl

section
variable (hopen : s.status.fopen = true) (hne : c ≠ c2) (hready : s.requireStereo c = .ok ())
  (hready2 : s.requireStereo c2 = .ok ())
include hopen hne hready hready2

/-- Behind its stage checks STEREO checks the layouts and the mode, and runs over the groups. -/
theorem stereoBody_of_ready : stereoBody c c2 s =
    (require (layoutsAgree (s.wAt c) (s.wAt c2)) .invalidBlockConfig >>= fun _ =>
      require (decide (0 ≤ s.simWord c Sim.stMode) && decide (s.simWord c Sim.stMode ≤ 3)) .invalidBlockConfig >>= fun _ =>
        (stereoGroups s c c2 (s.simWord c Sim.stMode) (List.range (s.wAt c).ngroups) 0).map fun new =>
          chansWritten s (stereoFrames s c c2 ((s.chanAt c).coef.put (new.map fun e => (e.1, e.2.1)))
            ((s.chanAt c2).coef.put (new.map fun e => (e.1, e.2.2))))) := by
  rw [stereoBody, (requireOpen_ok (u := ())).2 hopen, decide_eq_true hne, hready, hready2]
  rfl

theorem stereoBody_of_bad_pair (h : layoutsAgree (s.wAt c) (s.wAt c2) = false ∨ s.simWord c Sim.stMode < 0 ∨
    3 < s.simWord c Sim.stMode) : stereoBody c c2 s = raise .invalidBlockConfig := by
  rw [stereoBody_of_ready hopen hne hready hready2]
  cases hlayouts : layoutsAgree (s.wAt c) (s.wAt c2) with
  | false => rfl
  | true =>
    have hmode : (decide (0 ≤ s.simWord c Sim.stMode) && decide (s.simWord c Sim.stMode ≤ 3)) = false := by
      rw [hlayouts] at h
      simp only [Bool.true_eq_false, false_or] at h
      rw [← Bool.not_eq_true, Bool.and_eq_true, decide_eq_true_eq, decide_eq_true_eq]
      omega
    rw [hmode]
    rfl

theorem stereoBody_of_good_pair (hlayouts : layoutsAgree (s.wAt c) (s.wAt c2) = true)
    (hlo : 0 ≤ s.simWord c Sim.stMode) (hhi : s.simWord c Sim.stMode ≤ 3) : stereoBody c c2 s =
      (stereoGroups s c c2 (s.simWord c Sim.stMode) (List.range (s.wAt c).ngroups) 0).map fun new =>
        chansWritten s (stereoFrames s c c2 ((s.chanAt c).coef.put (new.map fun e => (e.1, e.2.1)))
          ((s.chanAt c2).coef.put (new.map fun e => (e.1, e.2.2)))) := by
  rw [stereoBody_of_ready hopen hne hready hready2, hlayouts, decide_eq_true hlo, decide_eq_true hhi]
  rfl

end

/-- Settles O50: behind the checks of the pair the command is its walk over the bands, which the first band that is not
fine ends, and which otherwise answers a matrix for each sample of a band that one is selected for. -/
theorem stereoAppliesMatrix : Obligations.StereoAppliesMatrix := by
  intro s c c2 hs hc hc2 x x2 y mode ready agree fine matrixAtSample
  obtain ⟨hopen, -⟩ := id hs
  rw [exec_stereo_eq_finish hs hc hc2]
  refine ⟨fun h => ?_, fun h hready hready2 => ?_⟩
  · subst h
    rw [stereoBody_of_equal hopen]
    rfl
  have hne : x ≠ x2 := slotOf_ne hc hc2 h
  have hchecks : s.requireStereo x = .ok () := requireStereo_of_ready hready.1 hready.2.1 hready.2.2
  have hchecks2 : s.requireStereo x2 = .ok () := requireStereo_of_ready hready2.1 hready2.2.1 hready2.2.2
  refine ⟨fun hbad => ?_, fun hagree hlo hhi => ?_⟩
  · rw [stereoBody_of_bad_pair hopen hne hchecks hchecks2 (hbad.imp_left fun hno => ?_)]
    · rfl
    · exact Bool.eq_false_iff.2 fun hyes => hno (layoutsAgree_iff.1 hyes)
  rw [stereoBody_of_good_pair hopen hne hchecks hchecks2 (layoutsAgree_iff.2 hagree) hlo hhi]
  refine ⟨fun g hg b hb hfirst => ⟨fun hbad => ?_, fun hgood hmissing => ?_⟩, fun hfine => ?_⟩
  · rw [stereoGroups_of_raise hlo hhi hg hb hfirst fun _ => stereoBands_cons_of_bad hbad]
    rfl
  · rw [stereoGroups_of_raise hlo hhi hg hb hfirst fun _ => stereoBands_cons_of_missing hlo hhi hgood hmissing]
    rfl
  · rw [stereoGroups_of_fine hlo hhi hfine]
    let frames := stereoFrames s x x2 (stereoCoef s x x2 Prod.fst (s.chanAt x).coef)
      (stereoCoef s x x2 Prod.snd (s.chanAt x2).coef)
    have hother : ∀ d, d ∉ [x, x2] → frames.get d = s.chanAt d := fun d hd => by
      simp only [List.mem_cons, List.not_mem_nil, or_false, not_or] at hd
      exact stereoFrames_get_other hd.1 hd.2
    refine ⟨(chansWritten s frames).ended, rfl, chansWritten_endsOn hother, chansWritten_gridsKept, chansWritten_bitpos,
      ?_, ?_, ?_⟩
    · intro z hz
      simp only [List.mem_cons, List.not_mem_nil, or_false] at hz
      rcases hz with rfl | rfl
      · rw [chansWritten_chanAt, stereoFrames_get_first hne]
        exact ⟨chansWritten_wAt, rfl, stereoChan_doneAdds⟩
      · rw [chansWritten_chanAt, stereoFrames_get_second hne]
        exact ⟨chansWritten_wAt, rfl, stereoChan_doneAdds⟩
    · intro k alpha hk
      obtain ⟨-, g, b, hmap, hg, hb, hsel⟩ := id hk
      obtain ⟨a, d, ha, hd⟩ := coef_of_not_missing (hfine g hg b hb).2 hsel hmap
      rw [chansWritten_chanAt, chansWritten_chanAt, stereoFrames_get_first hne, stereoFrames_get_second hne]
      refine ⟨a, d, ha, hd, (stereoCoef_of_matrixAt hk).trans ?_, (stereoCoef_of_matrixAt hk).trans ?_⟩ <;>
        rw [matrixOf, ha, hd] <;> rfl
    · intro k hk
      rw [chansWritten_chanAt, chansWritten_chanAt, stereoFrames_get_first hne, stereoFrames_get_second hne]
      exact ⟨stereoCoef_of_no_matrix hk, stereoCoef_of_no_matrix hk⟩

end Sys2Proof.Proofs

/-! IMDCT (43_stereo_imdct.md R256 to R259). What one window computes, entry by entry of its line and its tail; then the
runs of TD its windows store, which are disjoint. -/

namespace Sys2Proof.Proofs

open Sys2Proof Sys2Proof.Machine Sys2Proof.Laws Sys2Proof.Config

variable {s : State} {c : Fin 8}

/-! ### Entries of vectors -/

theorem atD_ofFn {α : Type} {n i : Nat} {f : Fin n → α} {d : α} :
    atD (Vector.ofFn f) i d = if h : i < n then f ⟨i, h⟩ else d := by
  rw [atD, Vector.getElem?_ofFn]
  split <;> rfl

theorem get_eq_atD {α : Type} {n : Nat} (v : Vector α n) (i : Fin n) (d : α) : v.get i = atD v i d := by
  simp [atD, Vector.get_eq_getElem]

/-! ### One window -/

section
variable {acc : Vector Real32 4096} {tail : Vector Real32 2048} {x : ChannelState} {y coefs : Array Real32}
  {flb d np len l i m n : Nat}

theorem invTransform_getD (hn : n < 2 * len) : (invTransform len coefs).getD n 0 = invTransformAt len coefs n := by
  simp [invTransform, hn]

theorem addTail_at (hi : i < 4096) : atD (addTail acc tail d np l) i 0 =
    if d - np / 2 ≤ i ∧ i < d - np / 2 + np then
      R32.add (atD acc i 0) (R32.mul (atD tail (i - (d - np / 2)) 0) (Tables.fall np l (i - (d - np / 2))))
    else atD acc i 0 := by
  rw [addTail, atD_ofFn, dif_pos hi, get_eq_atD acc _ 0]

theorem addBlock_at (hi : i < 4096) : atD (addBlock acc y d len l) i 0 =
    if d - len / 2 ≤ i ∧ i < d - len / 2 + len then
      R32.add (atD acc i 0) (R32.mul (y.getD (i - (d - len / 2)) 0) (Tables.rise len l (i - (d - len / 2))))
    else atD acc i 0 := by
  rw [addBlock, atD_ofFn, dif_pos hi, get_eq_atD acc _ 0]

/-- The length of the overlap with the tail that is pending, if one is (43_stereo_imdct.md R256). -/
def overlap (x : ChannelState) (len : Nat) : Nat := if x.nprev = 0 then len else min len x.nprev

/-- Entry `i` of the line with the old tail added (43_stereo_imdct.md R256). -/
def tailAdded (flb : Nat) (x : ChannelState) (len i : Nat) : Real32 :=
  let start := flb / 2 - x.nprev / 2
  if x.nprev ≠ 0 ∧ start ≤ i ∧ i < start + x.nprev then
    R32.add (atD x.acc i 0) (R32.mul (atD x.tail (i - start) 0) (Tables.fall x.nprev (overlap x len) (i - start)))
  else atD x.acc i 0

/-- Entry `i` of the line with the old tail and the new first half added (43_stereo_imdct.md R256). -/
def blockAdded (flb : Nat) (x : ChannelState) (len : Nat) (coefs : Array Real32) (i : Nat) : Real32 :=
  let start := flb / 2 - len / 2
  if start ≤ i ∧ i < start + len then
    R32.add (tailAdded flb x len i)
      (R32.mul (invTransformAt len coefs (i - start)) (Tables.rise len (overlap x len) (i - start)))
  else tailAdded flb x len i

/-- The line a window emits from and shifts. -/
def windowLine (flb : Nat) (x : ChannelState) (len : Nat) (coefs : Array Real32) : Vector Real32 4096 :=
  addBlock (if x.nprev = 0 then x.acc else addTail x.acc x.tail (flb / 2) x.nprev (overlap x len))
    (invTransform len coefs) (flb / 2) len (overlap x len)

theorem imdctWindow_eq : imdctWindow flb x len coefs =
    ({ x with
        acc := Vector.ofFn fun i => atD (windowLine flb x len coefs) (i.val + len) 0
        tail := Vector.ofFn fun m => if m.val < len then (invTransform len coefs).getD (len + m.val) 0 else x.tail.get m
        nprev := len },
      (List.range len).map fun n => atD (windowLine flb x len coefs) n 0) := rfl

theorem tailAdded_eq (hi : i < 4096) :
    atD (if x.nprev = 0 then x.acc else addTail x.acc x.tail (flb / 2) x.nprev (overlap x len)) i 0 =
      tailAdded flb x len i := by
  by_cases hnp : x.nprev = 0
  · simp [tailAdded, hnp]
  · rw [if_neg hnp, addTail_at hi]
    simp [tailAdded, hnp]

theorem windowLine_at (hi : i < 4096) : atD (windowLine flb x len coefs) i 0 = blockAdded flb x len coefs i := by
  rw [windowLine, addBlock_at hi, tailAdded_eq hi]
  refine if_ctx_congr Iff.rfl (fun h => ?_) fun _ => rfl
  rw [invTransform_getD (by omega)]

theorem imdctWindow_emitted (hlen : len ≤ 2048) :
    (imdctWindow flb x len coefs).2 = (List.range len).map (blockAdded flb x len coefs) := by
  rw [imdctWindow_eq]
  refine List.map_congr_left fun n hn => windowLine_at ?_
  have := List.mem_range.1 hn
  omega

theorem imdctWindow_acc_at (hi : i < 4096) : atD (imdctWindow flb x len coefs).1.acc i 0 =
    if i + len < 4096 then blockAdded flb x len coefs (i + len) else 0 := by
  rw [imdctWindow_eq]
  refine (atD_ofFn.trans (dif_pos hi)).trans ?_
  split
  · next h => exact windowLine_at h
  · next h => simp [atD, h]

theorem imdctWindow_tail_at (hm : m < 2048) : atD (imdctWindow flb x len coefs).1.tail m 0 =
    if m < len then invTransformAt len coefs (len + m) else atD x.tail m 0 := by
  rw [imdctWindow_eq]
  refine (atD_ofFn.trans (dif_pos hm)).trans ?_
  rw [get_eq_atD _ _ 0]
  exact if_ctx_congr Iff.rfl (fun h => invTransform_getD (Nat.two_mul len ▸ Nat.add_lt_add_left h len)) fun _ => rfl

theorem length_emitted : (imdctWindow flb x len coefs).2.length = len := by
  rw [imdctWindow_eq, List.length_map, List.length_range]

end

/-- Settles O51: the statement's line is `blockAdded`, its transform `invTransformAt`. -/
theorem imdctWindowFormula : Obligations.ImdctWindowFormula := by
  intro flb len x coefs hlen
  exact ⟨imdctWindow_emitted hlen, rfl, fun _ => imdctWindow_acc_at, fun _ => imdctWindow_tail_at⟩

/-! ### The windows in order -/

/-- Runs of elements stored in order, each from `base` plus its offset on. -/
def storeRuns (base : Nat) (m : Memory Word) (l : List (Nat × List Word)) : Memory Word :=
  l.foldl (fun m e => m.setRun (base + e.1) e.2) m

section
variable {base flb i n : Nat} {m : Memory Word} {l : List (Nat × List Word)} {any : Nat → Nat → Word}

theorem storeRuns_cons {e : Nat × List Word} :
    storeRuns base m (e :: l) = storeRuns base (m.setRun (base + e.1) e.2) l := rfl

theorem read_storeRuns_other (h : ∀ e ∈ l, i < base + e.1 ∨ base + e.1 + e.2.length ≤ i) :
    (storeRuns base m l).read any i = m.read any i := by
  induction l generalizing m with
  | nil => rfl
  | cons e l ih =>
    rw [storeRuns_cons, ih fun e' he' => h e' (List.mem_cons_of_mem _ he')]
    exact read_setRun_other any m _ _ i (h e List.mem_cons_self)

/-- Of runs that do not overlap each is there at the end. -/
theorem read_storeRuns_self (hm : m.wf = true) (hl : l.Pairwise fun a b => a.1 + a.2.length ≤ b.1) {e : Nat × List Word}
    (he : e ∈ l) (hn : n < e.2.length) : (storeRuns base m l).read any (base + e.1 + n) = e.2[n] := by
  induction l generalizing m with
  | nil => cases he
  | cons e' l ih =>
    obtain ⟨hfirst, hrest⟩ := List.pairwise_cons.1 hl
    rw [storeRuns_cons]
    rcases List.mem_cons.1 he with rfl | he
    · rw [read_storeRuns_other fun b hb => .inl (by have := hfirst b hb; omega)]
      exact read_setRun_self any hm _ _ n hn
    · exact ih (wf_setRun hm _ _) hrest he

/-! ### What the windows emit -/

variable {coef : Nat → Real32} {tab : Tab Real32 2048} {x : ChannelState} {ws : List Window}

theorem windowCoefs_eq {w : Window} (h : ∀ k < w.len, tab.at? (w.off + k) = some (coef (w.off + k))) :
    windowCoefs tab w = .ok ((List.range w.len).map fun k => coef (w.off + k)) := by
  have hget : ∀ t ∈ List.range' w.off w.len, Tab.get tab t = .ok (coef t) := by
    intro t ht
    rw [List.mem_range'_1] at ht
    have hval := h (t - w.off) (by omega)
    rw [Nat.add_sub_cancel' ht.1] at hval
    rw [Tab.get, hval]
    rfl
  rw [windowCoefs, mapE_of_forall hget, List.range'_eq_map_range, List.map_map]
  rfl

theorem imdctWindows_eq (h : ∀ w ∈ ws, ∀ k < w.len, tab.at? (w.off + k) = some (coef (w.off + k))) :
    imdctWindows flb base tab ws (x, m) =
      .ok ((imdctRun flb coef x ws).1, storeRuns base m (imdctRun flb coef x ws).2) := by
  induction ws generalizing x m with
  | nil => rfl
  | cons w ws ih =>
    rw [imdctWindows, windowCoefs_eq (h w List.mem_cons_self), imdctRun, storeRuns_cons,
      ← ih fun w' hw' => h w' (List.mem_cons_of_mem _ hw')]
    rfl

/-- Each window emits at its own offset as many samples as it is long. -/
theorem imdctRun_places :
    (imdctRun flb coef x ws).2.map (fun e => (e.1, e.2.length)) = ws.map fun w => (w.off, w.len) := by
  induction ws generalizing x with
  | nil => rfl
  | cons w ws ih =>
    rw [imdctRun, List.map_cons, List.map_cons, ih, length_emitted]

theorem imdctRun_disjoint (h : ws.Pairwise fun a b => a.off + a.len ≤ b.off) :
    (imdctRun flb coef x ws).2.Pairwise fun a b => a.1 + a.2.length ≤ b.1 := by
  have hplaces : (ws.map fun w => (w.off, w.len)).Pairwise fun a b => a.1 + a.2 ≤ b.1 := List.pairwise_map.2 h
  rw [← imdctRun_places (flb := flb) (coef := coef) (x := x)] at hplaces
  exact List.pairwise_map.1 hplaces

theorem exists_window_of_run {e : Nat × List Real32} (he : e ∈ (imdctRun flb coef x ws).2) :
    ∃ w ∈ ws, w.off = e.1 ∧ w.len = e.2.length := by
  have hplace : (e.1, e.2.length) ∈ ws.map fun w => (w.off, w.len) :=
    imdctRun_places (flb := flb) (coef := coef) (x := x) ▸ List.mem_map_of_mem he
  obtain ⟨w, hw, hwe⟩ := List.mem_map.1 hplace
  obtain ⟨hoff, hlen⟩ := Prod.mk.inj hwe
  exact ⟨w, hw, hoff, hlen⟩

end

/-! ### IMDCT -/

theorem exec_imdct (c : BitVec 4) (s : State) : exec (.imdct c) s = s.command [c] (imdctBody (slotOf c)) := rfl

theorem imdctBody_of_changed_length (hs : s.running) (hdeq : s.allDequantized c = true) (hdone : s.done c .imdct = false)
    (hlen : (s.wAt c).nprev ≠ 0 ∧ (s.wAt c).flbPrev ≠ s.frame.flb) : imdctBody c s = raise .invalidBlockConfig := by
  obtain ⟨hopen, -⟩ := hs
  have hcheck : s.requireImdct c = raise .invalidBlockConfig := by
    simp only [State.requireImdct, State.requireOpen, hopen, hdeq, hdone, bne_iff_ne.2 hlen.1, bne_iff_ne.2 hlen.2]
    rfl
  rw [imdctBody, hcheck]
  rfl

/-- The state of IMDCT, less the end of the command: TD, W[c] and the stage are written. -/
def transformed (s : State) (c : Fin 8) (td : Memory Word) (y : ChannelState) : State :=
  ({ s with td := td }.setW c y).markDone c .imdct

section
variable {td : Memory Word} {y : ChannelState}

theorem transformed_wAt : (transformed s c td y).ended.wAt c = y := wAt_setW { s with td := td } c y

theorem transformed_chanAt :
    (transformed s c td y).ended.chanAt c = { s.chanAt c with done := (s.chanAt c).done.add .imdct } := by
  have h := chanAt_markDone ({ s with td := td }.setW c y) c .imdct
  exact h

theorem transformed_endsOn : endsOn [c] s (transformed s c td y).ended := by
  refine ⟨⟨hostSideKept_refl s, ⟨rfl, rfl, rfl, rfl, rfl⟩, fun d hd => ?_, rfl⟩, rfl⟩
  rw [List.mem_singleton] at hd
  have hchan := chanAt_markDone_other ({ s with td := td }.setW c y) c d .imdct hd
  exact ⟨wAt_setW_other { s with td := td } c d y hd, hchan⟩

end

/-- Settles O52: with its coefficients there the command is the run over its windows, whose places in TD are disjoint. -/
theorem imdctWritesTimeDomain : Obligations.ImdctWritesTimeDomain := by
  intro s c coef hs hc x y hdeq hdone
  rw [exec_imdct]
  refine ⟨fun h => command_of_body_raise (e := .invalidBlockConfig) hs hc (imdctBody_of_changed_length hs hdeq hdone h),
    fun hlen hwf hdisjoint _ hcoef => ?_⟩
  let run := imdctRun s.frame.flb coef y y.wins
  let td := storeRuns (x.val * pcmStride) s.td run.2
  have hbody : imdctBody x s = .ok (transformed s x td { run.1 with flbPrev := s.frame.flb }) :=
    imdctBody_ok.2 ⟨hs.1, hdeq, hdone, hlen, _, _, imdctWindows_eq hcoef, rfl⟩
  refine ⟨_, command_of_body_ok hs hc hbody, transformed_endsOn, rfl, rfl, rfl, ?_, ?_, ⟨transformed_wAt, ?_⟩, ?_⟩
  · rw [transformed_chanAt]
  · rw [transformed_chanAt]
    exact doneAdds_add _ _
  · exact fun e he n hn => read_storeRuns_self hwf (imdctRun_disjoint hdisjoint) he hn
  · intro i hi
    refine read_storeRuns_other fun e he => ?_
    obtain ⟨w, hw, hoff, hlen⟩ := exists_window_of_run he
    have := hi w hw
    simp only [pcmStride]
    omega

end Sys2Proof.Proofs

/-! QMFA and QMFS (44_qmf.md R280 to R285). The line after each timeslot, by the recurrence of its shift; the rows and the
samples as functions of those lines; then the runs of equal length that QG and PCM are written by. -/

namespace Sys2Proof.Proofs

open Sys2Proof Sys2Proof.Machine Sys2Proof.Laws Sys2Proof.Config

/-! ### Runs of equal length -/

/-- Of lists of one length put in a row, entry `j` of list `i` stands at `len * i + j`. -/
theorem getElem?_flatMap_of_length {α β : Type} {f : α → List β} {len i j : Nat} {l : List α}
    (hlen : ∀ a ∈ l, (f a).length = len) (hj : j < len) :
    (l.flatMap f)[len * i + j]? = l[i]?.bind fun a => (f a)[j]? := by
  induction l generalizing i with
  | nil => rfl
  | cons a l ih =>
    have ha : (f a).length = len := hlen a List.mem_cons_self
    rw [List.flatMap_cons]
    cases i with
    | zero => rw [Nat.mul_zero, Nat.zero_add, List.getElem?_append_left (ha ▸ hj)]; rfl
    | succ i =>
      have hpos : len * (i + 1) + j - len = len * i + j := by rw [Nat.mul_succ]; omega
      rw [List.getElem?_append_right (by rw [ha, Nat.mul_succ]; omega), ha, hpos,
        ih fun b hb => hlen b (List.mem_cons_of_mem _ hb)]
      rfl

theorem length_flatMap_of_length {α β : Type} {f : α → List β} {len : Nat} {l : List α}
    (hlen : ∀ a ∈ l, (f a).length = len) : (l.flatMap f).length = len * l.length := by
  rw [List.length_flatMap, List.map_congr_left hlen, List.map_const', List.sum_replicate, smul_eq_mul, Nat.mul_comm]

section
variable {m : Memory Word} {any : Nat → Nat → Word} {base k : Nat} {v : Word}

theorem setRun_append {l l' : List Word} :
    m.setRun base (l ++ l') = (m.setRun base l).setRun (base + l.length) l' := by
  induction l generalizing m base with
  | nil => rfl
  | cons v l ih =>
    rw [List.cons_append, Memory.setRun, ih, List.length_cons, Nat.add_right_comm, Nat.add_assoc]
    rfl

theorem read_setRun_of_getElem? (hm : m.wf = true) {l : List Word} (h : l[k]? = some v) :
    (m.setRun base l).read any (base + k) = v := by
  obtain ⟨hk, rfl⟩ := List.getElem?_eq_some_iff.1 h
  exact read_setRun_self any hm base l k hk

end

/-! ### Analysis -/

section
variable {win qa : Vector Real32 640} {samples : Nat → List Real32}

theorem injectSlot_at {x : List Real32} {i : Nat} (hi : i < 640) : atD (injectSlot qa x) i 0 =
    if i < 64 then R32.mul Tables.qmfInScale (x.getD (63 - i) 0) else atD qa (i - 64) 0 := by
  rw [injectSlot, atD_ofFn, dif_pos hi]

theorem analysisSlot_get (k : Fin 64) : (analysisSlot win qa).get k =
    ⟨R32.sum ((List.range 128).map fun j => R32.mul (analysisBlock win qa j) (Tables.anaKernel k j).re),
     R32.sum ((List.range 128).map fun j => R32.mul (analysisBlock win qa j) (Tables.anaKernel k j).im)⟩ := by
  have hblocks (g : Nat → Real32) :
      (List.range 128).map (fun j =>
          R32.mul (atD (Vector.ofFn (n := 128) fun i => analysisBlock win qa i.val) j 0) (g j)) =
        (List.range 128).map fun j => R32.mul (analysisBlock win qa j) (g j) :=
    List.map_congr_left fun j hj => by rw [atD_ofFn, dif_pos (List.mem_range.1 hj)]
  simp only [analysisSlot, Vector.get_eq_getElem, Vector.getElem_ofFn, hblocks]

/-- The analysis line after the first timeslots of `samples` (44_qmf.md R281). -/
def analysisLine (qa : Vector Real32 640) (samples : Nat → List Real32) : Nat → Vector Real32 640
  | 0 => qa
  | ts + 1 => injectSlot (analysisLine qa samples ts) (samples ts)

/-- The subbands of the first `n` timeslots of `samples` (44_qmf.md R281). -/
def analysisRows (win qa : Vector Real32 640) (samples : Nat → List Real32) (n : Nat) : List Slot :=
  (List.range n).map fun ts => analysisSlot win (analysisLine qa samples (ts + 1))

theorem analyse_append_single {l : List (List Real32)} {x : List Real32} : analyse win qa (l ++ [x]) =
    (injectSlot (analyse win qa l).1 x,
      (analyse win qa l).2 ++ [analysisSlot win (injectSlot (analyse win qa l).1 x)]) := by
  induction l generalizing qa with
  | nil => rfl
  | cons y l ih => rw [List.cons_append, analyse, ih, analyse, List.cons_append]

theorem analyse_eq (n : Nat) : analyse win qa ((List.range n).map samples) =
    (analysisLine qa samples n, analysisRows win qa samples n) := by
  induction n with
  | zero => rfl
  | succ n ih =>
    rw [List.range_succ, List.map_append, List.map_singleton, analyse_append_single, ih, analysisRows, analysisRows,
      List.range_succ, List.map_append]
    rfl

theorem length_analysisRows (n : Nat) : (analysisRows win qa samples n).length = n := by
  rw [analysisRows, List.length_map, List.length_range]

theorem getElem_analysisRows {n ts : Nat} (h : ts < (analysisRows win qa samples n).length) :
    (analysisRows win qa samples n)[ts] = analysisSlot win (analysisLine qa samples (ts + 1)) := by
  simp only [analysisRows, List.getElem_map, List.getElem_range]

end

/-- The samples of timeslot `ts` of a signal. -/
def slotSamples (td : Nat → Real32) (ts : Nat) : List Real32 := (List.range 64).map fun j => td (64 * ts + j)

theorem slotSamples_getD (td : Nat → Real32) (ts : Nat) {j : Nat} (hj : j < 64) :
    (slotSamples td ts).getD j 0 = td (64 * ts + j) := by
  simp [slotSamples, hj]

section
variable {s : State} {c : Fin 8} {n : Nat} {td : Nat → Real32}

/-- TD[c] holds `td` in its first `n` timeslots. -/
theorem tdSlots_eq (h : ∀ k < 64 * n, s.td.get? (c.val * pcmStride + k) = some (td k)) :
    mapE (s.tdSlot c.val) (List.range n) = .ok ((List.range n).map (slotSamples td)) := by
  refine mapE_of_forall fun ts hts => mapE_of_forall fun j hj => valueOf_ok.2 ?_
  have hts := List.mem_range.1 hts
  have hj := List.mem_range.1 hj
  rw [Nat.add_assoc]
  exact h _ (by omega)

end

/-! ### The rows in QG -/

/-- The elements of QG that hold one timeslot. -/
def rowElems (row : Slot) : List Word := row.toList.flatMap cplxElems

theorem length_rowElems (row : Slot) : (rowElems row).length = 128 := by
  rw [rowElems, length_flatMap_of_length (len := 2) fun _ _ => rfl, Vector.length_toList]

theorem rowElems_at (row : Slot) (k : Fin 64) {j : Nat} (hj : j < 2) :
    (rowElems row)[2 * k.val + j]? = (cplxElems (row.get k))[j]? := by
  have hget : row.toList[k.val]? = some (row.get k) := by simp [Vector.get_eq_getElem]
  rw [rowElems, getElem?_flatMap_of_length (len := 2) (fun _ _ => rfl) hj, hget]
  rfl

section
variable {m : Memory Word} {any : Nat → Nat → Word} {c n : Nat} {rows : List Slot}

theorem qgIndex_eq (c ts k : Nat) : qgIndex c ts k = c * 4096 + (128 * ts + 2 * k) := by
  simp only [qgIndex, maxTs]
  omega

/-- The rows of a channel stand one after another in QG. -/
theorem writeRows_eq_setRun (ts : Nat) :
    writeRows m c ts rows = m.setRun (qgIndex c ts 0) (rows.flatMap rowElems) := by
  induction rows generalizing m ts with
  | nil => rfl
  | cons row rows ih =>
    have hnext : qgIndex c ts 0 + (rowElems row).length = qgIndex c (ts + 1) 0 := by
      rw [length_rowElems, qgIndex_eq, qgIndex_eq]
      omega
    rw [writeRows, ih, List.flatMap_cons, setRun_append, hnext]
    rfl

theorem read_writeRows_other {e : Nat} (h : ¬(c * 4096 ≤ e ∧ e < c * 4096 + 128 * rows.length)) :
    (writeRows m c 0 rows).read any e = m.read any e := by
  rw [writeRows_eq_setRun]
  refine read_setRun_other any m _ _ e ?_
  rw [length_flatMap_of_length fun row _ => length_rowElems row, qgIndex_eq]
  omega

theorem read_writeRows_self (hm : m.wf = true) {ts : Nat} (hts : ts < rows.length) (k : Fin 64) {j : Nat} {v : Word}
    (hv : (cplxElems (rows[ts].get k))[j]? = some v) : (writeRows m c 0 rows).read any (qgIndex c ts k + j) = v := by
  have hj : j < 2 := (List.getElem?_eq_some_iff.1 hv).1
  have hplace : qgIndex c ts k + j = qgIndex c 0 0 + (128 * ts + (2 * k.val + j)) := by
    rw [qgIndex_eq, qgIndex_eq]
    omega
  rw [writeRows_eq_setRun, hplace]
  refine read_setRun_of_getElem? hm ?_
  rw [getElem?_flatMap_of_length (fun row _ => length_rowElems row) (by omega), List.getElem?_eq_getElem hts,
    Option.bind_some, rowElems_at _ k hj, hv]

end

/-! ### The state after a filterbank command -/

/-- PCM, QG, W[c] and F[c] written and the stage `x` added: how QMFA and QMFS change the state. -/
def filtered (s : State) (c : Fin 8) (pcm qg : Memory Word) (y : ChannelState) (f : ChanFrame) (x : Stage) : State :=
  ({ s with pcm := pcm, qg := qg }.setW c y).setChan c { f with done := f.done.add x }

theorem markDone_setChan (s : State) (c : Fin 8) (f : ChanFrame) (x : Stage) :
    (s.setChan c f).markDone c x = s.setChan c { f with done := f.done.add x } := by
  rw [State.markDone, chanAt_setChan]
  simp [State.setChan]

section
variable {s : State} {c : Fin 8} {pcm qg : Memory Word} {y : ChannelState} {f : ChanFrame} {x : Stage}

theorem filtered_wAt : (filtered s c pcm qg y f x).ended.wAt c = y := wAt_setW { s with pcm := pcm, qg := qg } c y

theorem filtered_chanAt : (filtered s c pcm qg y f x).ended.chanAt c = { f with done := f.done.add x } := by
  have h := chanAt_setChan ({ s with pcm := pcm, qg := qg }.setW c y) c { f with done := f.done.add x }
  exact h

theorem filtered_endsOn : endsOn [c] s (filtered s c pcm qg y f x).ended := by
  refine ⟨⟨hostSideKept_refl s, ⟨rfl, rfl, rfl, rfl, rfl⟩, fun d hd => ?_, rfl⟩, rfl⟩
  rw [List.mem_singleton] at hd
  have hchan := chanAt_setChan_other ({ s with pcm := pcm, qg := qg }.setW c y) c d { f with done := f.done.add x } hd
  exact ⟨wAt_setW_other { s with pcm := pcm, qg := qg } c d y hd, hchan⟩

end

/-! ### QMFA -/

theorem exec_qmfa (c : BitVec 4) (s : State) : exec (.qmfa c) s = s.command [c] (qmfaBody (slotOf c)) := rfl

section
variable {s : State} {c : Fin 8}

theorem requireSlots_of_none (h : s.frame.numTs = none) : s.requireSlots = raise .invalidBlockConfig := by
  rw [State.requireSlots, h]

theorem qmfaBody_of_no_slots (hs : s.running) (himdct : s.done c .imdct = true) (hqmfa : s.done c .qmfa = false)
    (hslots : s.frame.numTs = none) : qmfaBody c s = raise .invalidBlockConfig := by
  have hcheck : s.requireQmfa c = raise .invalidBlockConfig := by
    simp only [State.requireQmfa, State.requireOpen, hs.1, himdct, hqmfa, requireSlots_of_none hslots]
    rfl
  rw [qmfaBody, hcheck]
  rfl

/-- The state QMFA leaves, from the samples of the timeslots. -/
theorem qmfaBody_eq {n : Nat} {td : Nat → Real32} (hs : s.running) (himdct : s.done c .imdct = true)
    (hqmfa : s.done c .qmfa = false) (hslots : s.frame.numTs = some n)
    (htd : ∀ k < 64 * n, s.td.get? (c.val * pcmStride + k) = some (td k)) :
    let y := s.wAt c
    let rows := analysisRows s.cfg.qmfWin y.qa (slotSamples td) n
    qmfaBody c s = .ok (filtered s c s.pcm (writeRows s.qg c.val 0 rows)
      { y with qa := analysisLine y.qa (slotSamples td) n, qhist := (y.qhist ++ rows).drop n }
      { s.chanAt c with qlow := some (y.qhist ++ rows) } .qmfa) := by
  refine qmfaBody_ok.2 ⟨hs.1, himdct, hqmfa, n, _, hslots, tdSlots_eq htd, ?_⟩
  rw [analyse_eq, markDone_setChan]
  rfl

end

/-- Settles O53: the line is `analysisLine`, and QG, Qlow and the history hold the `analysisRows` taken from it after each
timeslot. -/
theorem qmfaAnalyses : Obligations.QmfaAnalyses := by
  intro s c hs hc x y himdct hqmfa
  rw [exec_qmfa]
  refine ⟨fun h => command_of_body_raise (e := .invalidBlockConfig) hs hc (qmfaBody_of_no_slots hs himdct hqmfa h),
    fun n td hslots _ hwf hhist htd => ?_⟩
  let line := analysisLine y.qa (slotSamples td)
  let rows := analysisRows s.cfg.qmfWin y.qa (slotSamples td) n
  have hlength : rows.length = n := length_analysisRows n
  refine ⟨_, line, rows, command_of_body_ok hs hc (qmfaBody_eq hs himdct hqmfa hslots htd), filtered_endsOn, rfl, rfl,
    rfl, filtered_wAt, hlength, ?_, ?_, ?_, rfl, fun ts _ i hi => ?_, fun ts hts k => ?_, fun e he => ?_⟩
  · rw [filtered_wAt]
    simp only [List.length_drop, List.length_append, length_analysisRows, Nat.add_sub_cancel]
    exact hhist
  · rw [filtered_chanAt]
  · rw [filtered_chanAt]
    exact doneAdds_add _ _
  · refine (injectSlot_at hi).trans (if_ctx_congr Iff.rfl (fun h => ?_) fun _ => rfl)
    rw [slotSamples_getD td ts (by omega), Nat.add_sub_assoc (by omega)]
  · have hrow : rows[ts].get k = (analysisSlot s.cfg.qmfWin (line (ts + 1))).get k := by rw [getElem_analysisRows hts]
    refine ⟨?_, ?_, ?_⟩
    · rw [hrow, analysisSlot_get]
      rfl
    · rw [hrow, analysisSlot_get]
      rfl
    · exact congrArg₂ Cplx.mk (read_writeRows_self (j := 0) hwf hts k rfl) (read_writeRows_self (j := 1) hwf hts k rfl)
  · exact read_writeRows_other (hlength.symm ▸ he)

/-! ### Synthesis -/

section
variable {win : Vector Real32 640} {qs : Vector Real32 1280} {row : Nat → Slot} {n i j ts : Nat}

theorem shiftSynthesis_at {r : Slot} (hi : i < 1280) : atD (shiftSynthesis qs r) i 0 =
    if i < 128 then synthesisTap r i else atD qs (i - 128) 0 := by
  rw [shiftSynthesis, atD_ofFn, dif_pos hi]

theorem length_synthesisOut : (synthesisOut win qs).length = 64 := by
  rw [synthesisOut, List.length_map, List.length_range]

theorem synthesisOut_at (hj : j < 64) : (synthesisOut win qs)[j]? = some (R32.mul Tables.qmfOutScale
    (R32.sum ((List.range 10).map fun i => R32.mul (gathered qs i j) (atD win (64 * i + j) 0)))) := by
  rw [synthesisOut, List.getElem?_map, List.getElem?_range hj]
  rfl

/-- The synthesis line after the first timeslots of `row` (44_qmf.md R285). -/
def synthesisLine (qs : Vector Real32 1280) (row : Nat → Slot) : Nat → Vector Real32 1280
  | 0 => qs
  | ts + 1 => shiftSynthesis (synthesisLine qs row ts) (row ts)

/-- The samples of the first `n` timeslots of `row` (44_qmf.md R285). -/
def synthesisSamples (win : Vector Real32 640) (qs : Vector Real32 1280) (row : Nat → Slot) (n : Nat) : List Real32 :=
  (List.range n).flatMap fun ts => synthesisOut win (synthesisLine qs row (ts + 1))

theorem synthesise_append_single {l : List Slot} {r : Slot} : synthesise win qs (l ++ [r]) =
    (shiftSynthesis (synthesise win qs l).1 r,
      (synthesise win qs l).2 ++ synthesisOut win (shiftSynthesis (synthesise win qs l).1 r)) := by
  induction l generalizing qs with
  | nil => simp [synthesise]
  | cons r' l ih => rw [List.cons_append, synthesise, ih, synthesise, List.append_assoc]

theorem synthesise_eq (n : Nat) : synthesise win qs ((List.range n).map row) =
    (synthesisLine qs row n, synthesisSamples win qs row n) := by
  induction n with
  | zero => rfl
  | succ n ih =>
    rw [List.range_succ, List.map_append, List.map_singleton, synthesise_append_single, ih, synthesisSamples,
      synthesisSamples, List.range_succ, List.flatMap_append, List.flatMap_singleton]
    rfl

theorem length_synthesisSamples : (synthesisSamples win qs row n).length = 64 * n := by
  rw [synthesisSamples, length_flatMap_of_length fun _ _ => length_synthesisOut, List.length_range]

theorem synthesisSamples_at (hts : ts < n) (hj : j < 64) :
    (synthesisSamples win qs row n)[64 * ts + j]? = (synthesisOut win (synthesisLine qs row (ts + 1)))[j]? := by
  rw [synthesisSamples, getElem?_flatMap_of_length (fun _ _ => length_synthesisOut) hj, List.getElem?_range hts]
  rfl

end

/-! ### QMFS -/

theorem exec_qmfs (c : BitVec 4) (s : State) : exec (.qmfs c) s = s.command [c] (qmfsBody (slotOf c)) := rfl

section
variable {s : State} {c : Fin 8}

/-- A new tap from the grid, the subbands as numbers. -/
theorem synthesisTap_gridRow (ts i : Nat) : synthesisTap (s.gridRow c.val ts) i =
    R32.sum (((List.finRange 64).map Fin.val).map fun k =>
      R32.sub (R32.mul (s.gridAt c ts k).re (Tables.synKernel k i).re)
        (R32.mul (s.gridAt c ts k).im (Tables.synKernel k i).im)) := by
  have hget (k : Fin 64) : (s.gridRow c.val ts).get k = s.gridAt c ts k := by
    rw [State.gridRow, Vector.get_eq_getElem, Vector.getElem_ofFn]
  simp only [synthesisTap, hget, List.map_map, Function.comp_def]

theorem qmfsBody_of_no_slots (hs : s.running) (hqmfa : s.done c .qmfa = true) (hqmfs : s.done c .qmfs = false)
    (haspx : s.done c .axcfg = true → s.done c .axasm = true) (hslots : s.frame.numTs = none) :
    qmfsBody c s = raise .invalidBlockConfig := by
  have hready : (!s.done c .axcfg || s.done c .axasm) = true := by
    rw [Bool.or_eq_true, Bool.not_eq_true', or_iff_not_imp_left, Bool.not_eq_false]
    exact haspx
  have hcheck : s.requireQmfs c = raise .invalidBlockConfig := by
    simp only [State.requireQmfs, State.requireOpen, hs.1, hqmfa, hqmfs, hready, requireSlots_of_none hslots]
    rfl
  rw [qmfsBody, hcheck]
  rfl

/-- The state QMFS leaves, from the rows of QG. -/
theorem qmfsBody_eq {n : Nat} (hs : s.running) (hqmfa : s.done c .qmfa = true) (hqmfs : s.done c .qmfs = false)
    (haspx : s.done c .axcfg = true → s.done c .axasm = true) (hslots : s.frame.numTs = some n) :
    let y := s.wAt c
    let row := s.gridRow c.val
    qmfsBody c s = .ok (filtered s c
      (s.pcm.setRun (c.val * pcmStride) (synthesisSamples s.cfg.qmfWin y.qs row n)) s.qg
      { y with qs := synthesisLine y.qs row n } (s.chanAt c) .qmfs) := by
  refine qmfsBody_ok.2 ⟨hs.1, hqmfa, hqmfs, haspx, n, hslots, ?_⟩
  rw [synthesise_eq]
  rfl

end

/-- Settles O54: the line is `synthesisLine`, and PCM holds the runs of 64 samples taken from it after each timeslot. -/
theorem qmfsSynthesizes : Obligations.QmfsSynthesizes := by
  intro s c hs hc x y hqmfa hqmfs haspx
  rw [exec_qmfs]
  refine ⟨fun h => command_of_body_raise (e := .invalidBlockConfig) hs hc (qmfsBody_of_no_slots hs hqmfa hqmfs haspx h),
    fun n hslots _ hwf => ?_⟩
  let line := synthesisLine y.qs (s.gridRow x.val)
  refine ⟨_, line, command_of_body_ok hs hc (qmfsBody_eq hs hqmfa hqmfs haspx hslots), filtered_endsOn, rfl, rfl, rfl,
    filtered_wAt, ?_, ?_, rfl, fun ts _ i hi => ?_, fun ts hts j hj => ?_, fun e he => ?_⟩
  · rw [filtered_chanAt]
  · rw [filtered_chanAt]
    exact doneAdds_add _ _
  · rw [bind_pure_comp, List.map_eq_map, ← synthesisTap_gridRow]
    exact shiftSynthesis_at hi
  · rw [Nat.add_assoc]
    exact read_setRun_of_getElem? hwf ((synthesisSamples_at hts hj).trans (synthesisOut_at hj))
  · refine read_setRun_other _ _ _ _ e ?_
    rw [length_synthesisSamples]
    simp only [pcmStride]
    omega

end Sys2Proof.Proofs

/-! BuildTables (45_aspx_tables.md R301 to R308). Each table it returns by the recurrences of its rule: the walk of Patches
as a sequence of turns, the noise table by its indexes, the limiter table as a fold over its candidates. -/

namespace Sys2Proof.Proofs

open Sys2Proof Sys2Proof.Machine Sys2Proof.Laws Sys2Proof.Config

/-! ### Border tables -/

section
variable {m : List Nat} {lo i j : Nat}

theorem entry_of_lt (h : i < m.length) : entry m i = m[i] := List.getD_eq_getElem m 0 h

theorem head?_eq_entry (h : m ≠ []) : m.head? = some (entry m 0) := by
  rw [List.head?_eq_getElem?, List.getElem?_eq_getElem (List.length_pos_iff.2 h), entry_of_lt]

theorem getLast?_eq_entry (h : m ≠ []) : m.getLast? = some (entry m (m.length - 1)) := by
  have hlen := List.length_pos_iff.2 h
  rw [List.getLast?_eq_getElem?, List.getElem?_eq_getElem (by omega), entry_of_lt]

theorem entry_map_range {f : Nat → Nat} {n : Nat} (h : i < n) : entry ((List.range n).map f) i = f i := by
  rw [entry_of_lt (by simpa using h), List.getElem_map, List.getElem_range]

theorem tableOk_iff : tableOk lo m = true ↔ 2 ≤ m.length ∧ m.Pairwise (· < ·) ∧ ∀ f ∈ m, lo ≤ f ∧ f ≤ 64 := by
  simp [tableOk, and_assoc]

theorem entry_le_of_tableOk (h : tableOk lo m = true) (hij : i ≤ j) (hj : j < m.length) : entry m i ≤ entry m j := by
  obtain ⟨-, hrising, -⟩ := tableOk_iff.1 h
  rw [entry_of_lt (hij.trans_lt hj), entry_of_lt hj]
  rcases hij.eq_or_lt with rfl | hlt
  · exact le_rfl
  · exact (List.pairwise_iff_getElem.1 hrising i j _ hj hlt).le

theorem entry_lt_of_tableOk (h : tableOk lo m = true) (hij : i < j) (hj : j < m.length) : entry m i < entry m j := by
  obtain ⟨-, hrising, -⟩ := tableOk_iff.1 h
  rw [entry_of_lt (hij.trans hj), entry_of_lt hj]
  exact List.pairwise_iff_getElem.1 hrising i j _ hj hij

theorem entry_bounds_of_tableOk (h : tableOk lo m = true) (hi : i < m.length) : lo ≤ entry m i ∧ entry m i ≤ 64 := by
  obtain ⟨-, -, hbounds⟩ := tableOk_iff.1 h
  rw [entry_of_lt hi]
  exact hbounds _ (List.getElem_mem hi)

theorem entry_drop (i n : Nat) : entry (m.drop n) i = entry m (n + i) := by simp [entry, List.getD_eq_getElem?_getD]

end

/-! ### The low-resolution table -/

section
variable {hi : List Nat} {i : Nat}

theorem groups_lowRes : groups (lowRes hi) = groups hi - groups hi / 2 := by simp [lowRes, groups]

theorem head?_lowRes : (lowRes hi).head? = some (entry hi 0) := rfl

theorem entry_lowRes (hpos : 1 ≤ i) (h : i ≤ groups hi - groups hi / 2) :
    entry (lowRes hi) i = entry hi (if groups hi % 2 = 0 then 2 * i else 2 * i - 1) := by
  obtain ⟨j, rfl⟩ := Nat.exists_eq_add_of_le' hpos
  exact entry_map_range h

end

/-! ### The noise table -/

/-- In a downward closed run of numbers below `n`, those counted are the first ones. -/
theorem lt_countP_range_iff {p : Nat → Bool} (hp : ∀ i j, i ≤ j → p j = true → p i = true) {n j : Nat} (hj : j < n) :
    j < (List.range n).countP p ↔ p j = true := by
  induction n with
  | zero => omega
  | succ n ih =>
    rw [List.range_succ, List.countP_append, List.countP_singleton]
    cases hn : p n with
    | true =>
      have hall : (List.range n).countP p = n := by
        rw [List.countP_eq_length.2 fun i hi => hp i n (List.mem_range.1 hi).le hn, List.length_range]
      rw [hall, if_pos rfl]
      exact iff_of_true hj (hp j n (Nat.lt_succ_iff.1 hj) hn)
    | false =>
      have hle := List.countP_le_length (p := p) (l := List.range n)
      rw [List.length_range] at hle
      rw [if_neg Bool.false_ne_true, Nat.add_zero]
      rcases (Nat.lt_succ_iff.1 hj).eq_or_lt with rfl | hlt
      · exact iff_of_false (by omega) (by simp [hn])
      · exact ih hlt

/-- The octaves from `sbx` to `sbTop`, taken `e` times, are `2 * n + 1` at least (45_aspx_tables.md R305). -/
def spans (e sbx sbTop n : Nat) : Prop := 2 ^ (2 * n + 1) * sbx ^ e ≤ sbTop ^ e

theorem spans_mono {e sbx sbTop i j : Nat} (hij : i ≤ j) (h : spans e sbx sbTop j) : spans e sbx sbTop i :=
  (Nat.mul_le_mul_right _ (Nat.pow_le_pow_right (by decide) (by omega))).trans h

/-- The count of noise groups below 6 (45_aspx_tables.md R305). -/
theorem noiseCount_bounds {nsb : Int} {sbx sbTop : Nat} (h : noiseCount nsb sbx sbTop ≤ 5) :
    let e := 2 * min nsb.toNat 1000
    let nq := noiseCount nsb sbx sbTop
    1 ≤ nq ∧ (nq = 1 ∨ spans e sbx sbTop (nq - 1)) ∧ ¬spans e sbx sbTop nq := by
  intro e nq
  have hcount {j : Nat} (hj : j < 6) : j < (List.range 6).countP (fun j => decide
      (2 ^ (2 * j + 1) * sbx ^ e ≤ sbTop ^ e)) ↔ spans e sbx sbTop j := by
    rw [lt_countP_range_iff (fun i j hij => ?_) hj, decide_eq_true_iff, spans]
    rw [decide_eq_true_iff, decide_eq_true_iff]
    exact spans_mono hij
  have hnq : nq = max 1 ((List.range 6).countP (fun j => decide (2 ^ (2 * j + 1) * sbx ^ e ≤ sbTop ^ e))) := rfl
  have hle : nq ≤ 5 := h
  refine ⟨by omega, ?_, ?_⟩
  · rw [← hcount (by omega)]
    omega
  · rw [← hcount (by omega)]
    omega

/-- A border of [1, 64] doubles the one below it if both are taken a hundred times. -/
theorem double_pow_le {sbx sbTop : Nat} (h : sbx < sbTop) (htop : sbTop ≤ 64) : 2 * sbx ^ 100 ≤ sbTop ^ 100 := by
  have hratio : 64 * sbx ≤ 63 * sbTop := by omega
  refine Nat.le_of_mul_le_mul_left ?_ (Nat.pow_pos (n := 100) (show 0 < 63 by decide))
  calc 63 ^ 100 * (2 * sbx ^ 100)
      = 2 * 63 ^ 100 * sbx ^ 100 := by ring
    _ ≤ 64 ^ 100 * sbx ^ 100 := Nat.mul_le_mul_right _ (by norm_num)
    _ = (64 * sbx) ^ 100 := (Nat.mul_pow _ _ _).symm
    _ ≤ (63 * sbTop) ^ 100 := Nat.pow_le_pow_left hratio _
    _ = 63 ^ 100 * sbTop ^ 100 := Nat.mul_pow _ _ _

/-- Two borders of [1, 64] are more octaves apart than five noise groups take, if taken often enough. -/
theorem spans_of_often {sbx sbTop n : Nat} (h : sbx < sbTop) (htop : sbTop ≤ 64) (hn : 11 ≤ n) :
    spans (100 * n) sbx sbTop 5 :=
  calc 2 ^ (2 * 5 + 1) * sbx ^ (100 * n)
      ≤ 2 ^ n * sbx ^ (100 * n) := Nat.mul_le_mul_right _ (Nat.pow_le_pow_right (by decide) hn)
    _ = (2 * sbx ^ 100) ^ n := by rw [Nat.mul_pow, Nat.pow_mul]
    _ ≤ (sbTop ^ 100) ^ n := Nat.pow_le_pow_left (double_pow_le h htop) _
    _ = sbTop ^ (100 * n) := (Nat.pow_mul _ _ _).symm

/-- A legal count of noise groups is that of the rule: no bound on how often the borders are taken was reached
(45_aspx_tables.md R305). -/
theorem noiseCount_spec {nsb : Int} {sbx sbTop : Nat} (h : sbx < sbTop) (htop : sbTop ≤ 64)
    (hle : noiseCount nsb sbx sbTop ≤ 5) :
    let e := 2 * nsb.toNat
    let nq := noiseCount nsb sbx sbTop
    1 ≤ nq ∧ (2 ^ (2 * nq - 1) * sbx ^ e ≤ sbTop ^ e ∨ nq = 1) ∧ sbTop ^ e < 2 ^ (2 * nq + 1) * sbx ^ e := by
  intro e nq
  obtain ⟨hpos, hlast, hnext⟩ := noiseCount_bounds hle
  have hunclipped : min nsb.toNat 1000 = nsb.toNat := by
    by_contra hclipped
    rw [show 2 * min nsb.toNat 1000 = 100 * 20 by omega] at hnext
    exact hnext (spans_mono hle (spans_of_often h htop (by decide)))
  rw [hunclipped] at hlast hnext
  refine ⟨hpos, hlast.symm.imp_left fun hspans => ?_, Nat.lt_of_not_le hnext⟩
  rwa [spans, show 2 * (nq - 1) + 1 = 2 * nq - 1 by omega] at hspans

/-- The index into the low-resolution table of noise border `k` (45_aspx_tables.md R305). -/
def noiseIndex (nl nq : Nat) : Nat → Nat
  | 0 => 0
  | k + 1 => noiseIndex nl nq k + (nl - noiseIndex nl nq k) / (nq - k)

theorem noiseIndexes_eq (nl left k : Nat) :
    noiseIndexes nl left (noiseIndex nl (k + left) k) = (List.range' (k + 1) left).map (noiseIndex nl (k + left)) := by
  induction left generalizing k with
  | zero => rfl
  | succ left ih =>
    have hnext : noiseIndex nl (k + (left + 1)) k + (nl - noiseIndex nl (k + (left + 1)) k) / (left + 1) =
        noiseIndex nl (k + (left + 1)) (k + 1) := by
      rw [noiseIndex, Nat.add_sub_cancel_left]
    have hrest := ih (k + 1)
    rw [Nat.add_right_comm, Nat.add_assoc] at hrest
    simp only [noiseIndexes, hnext, hrest, List.range'_succ, List.map_cons]

theorem noiseTable_eq (lo : List Nat) (nq : Nat) :
    noiseTable lo nq = (List.range (nq + 1)).map fun k => entry lo (noiseIndex (groups lo) nq k) := by
  have hindexes : noiseIndexes (groups lo) nq 0 = (List.range' 1 nq).map (noiseIndex (groups lo) nq) := by
    have hfrom := noiseIndexes_eq (groups lo) nq 0
    rwa [Nat.zero_add, Nat.zero_add] at hfrom
  rw [noiseTable, hindexes, List.range_eq_range', List.range'_succ, List.map_cons,
    List.map_map]
  rfl

theorem groups_noiseTable (lo : List Nat) (nq : Nat) : groups (noiseTable lo nq) = nq := by
  simp [noiseTable_eq, groups]

theorem entry_noiseTable {lo : List Nat} {nq k : Nat} (h : k ≤ nq) :
    entry (noiseTable lo nq) k = entry lo (noiseIndex (groups lo) nq k) := by
  rw [noiseTable_eq, entry_map_range (Nat.lt_succ_iff.2 h)]

/-- The noise table by the recurrence of its indexes (45_aspx_tables.md R305). -/
theorem noiseTable_follows (lo : List Nat) (nq : Nat) :
    ∃ idx : Nat → Nat, idx 0 = 0 ∧ entry (noiseTable lo nq) 0 = entry lo 0 ∧ ∀ k, 1 ≤ k → k ≤ nq →
      idx k = idx (k - 1) + (groups lo - idx (k - 1)) / (nq + 1 - k) ∧
        entry (noiseTable lo nq) k = entry lo (idx k) := by
  refine ⟨noiseIndex (groups lo) nq, rfl, rfl, fun k hpos hk => ⟨?_, entry_noiseTable hk⟩⟩
  obtain ⟨j, rfl⟩ := Nat.exists_eq_add_of_le' hpos
  rw [noiseIndex, Nat.add_sub_cancel, Nat.add_sub_add_right]

/-! ### The limiter table -/

theorem insertSorted_eq (x : Nat) (l : List Nat) : insertSorted x l = l.orderedInsert (· ≤ ·) x := by
  induction l with
  | nil => rfl
  | cons y l ih => rw [insertSorted, List.orderedInsert_cons, ih]

theorem sortUp_eq (l : List Nat) : sortUp l = l.insertionSort (· ≤ ·) := by
  induction l with
  | nil => rfl
  | cons x l ih => rw [sortUp, insertSorted_eq, ih, List.insertionSort_cons]

theorem patchBorders_eq (sbx : Nat) (ps : List RawPatch) : patchBorders sbx ps = bordersOf sbx ps := by
  induction ps generalizing sbx with
  | nil => rfl
  | cons p ps ih =>
    rw [patchBorders, ih, bordersOf, bordersOf, List.length_cons, List.range_succ_eq_map (n := ps.length + 1),
      List.map_cons, List.map_map]
    refine congrArg₂ _ rfl (List.map_congr_left fun i _ => ?_)
    simp [Nat.add_assoc]

/-- The merge that keeps `o` last is the fold of the turns (45_aspx_tables.md R307). -/
theorem foldl_limiterTurn (pb l kept : List Nat) (o : Nat) :
    l.foldl (limiterTurn pb) (kept ++ [o]) = kept ++ limiterMerge pb o l := by
  induction l generalizing kept o with
  | nil => rfl
  | cons x l ih =>
    have hturn : limiterTurn pb (kept ++ [o]) x =
        if wide o x then (kept ++ [o]) ++ [x]
        else if x = o ∨ x ∉ pb then kept ++ [o]
        else if o ∉ pb then kept ++ [x]
        else (kept ++ [o]) ++ [x] := by
      simp [limiterTurn, wide]
    rw [List.foldl_cons, hturn, limiterMerge]
    simp only [Bool.not_eq_true', List.contains_eq_mem, decide_eq_false_iff_not]
    split_ifs <;> rw [ih] <;> simp

theorem limiterTable_eq (lo : List Nat) (ps : List RawPatch) (sbx : Nat) :
    limiterTable lo ps sbx = (sortUp (lo ++ ((bordersOf sbx ps).drop 1).take (ps.length - 1))).foldl
      (limiterTurn (bordersOf sbx ps)) [] := by
  rw [limiterTable, patchBorders_eq]
  split
  · next h => rw [h]; rfl
  · next x l h => rw [h]; exact (foldl_limiterTurn _ l [] x).symm

/-- The limiter table is the fold of the turns over its candidates in ascending order (45_aspx_tables.md R307). -/
theorem limiterTable_follows (lo : List Nat) (ps : List RawPatch) (sbx : Nat) :
    ∃ cand : List Nat, cand.Perm (lo ++ ((bordersOf sbx ps).drop 1).take (ps.length - 1)) ∧ cand.Pairwise (· ≤ ·) ∧
      limiterTable lo ps sbx = cand.foldl (limiterTurn (bordersOf sbx ps)) [] := by
  refine ⟨_, ?_, ?_, limiterTable_eq lo ps sbx⟩ <;> rw [sortUp_eq]
  · exact List.perm_insertionSort _ _
  · exact List.pairwise_insertionSort _ _

/-! ### The walk of Patches -/

theorem borderAt_eq_some_iff {m : List Nat} {k0 msb i : Nat} {r : Nat × Nat} : borderAt m k0 msb i = some r ↔
    entry m i + 1 + (entry m i + k0) % 2 ≤ k0 + msb ∧ r = (entry m i, (entry m i + k0) % 2) := by
  simp [borderAt, eq_comm]

theorem borderAt_eq_none_iff {m : List Nat} {k0 msb i : Nat} : borderAt m k0 msb i = none ↔
    ¬entry m i + 1 + (entry m i + k0) % 2 ≤ k0 + msb := by
  simp [borderAt]

/-- The inner loop goes down to the first border that fits (45_aspx_tables.md R306). -/
theorem walkDown_eq_some {m : List Nat} {k0 msb k : Nat} {r : Nat × Nat} (h : walkDown m k0 msb k = some r) :
    ∃ i ≤ k, borderAt m k0 msb i = some r ∧ ∀ j, i < j → j ≤ k → borderAt m k0 msb j = none := by
  induction k with
  | zero => exact ⟨0, le_rfl, h, fun j _ _ => by omega⟩
  | succ k ih =>
    rw [walkDown] at h
    cases hb : borderAt m k0 msb (k + 1) with
    | some r' =>
      rw [hb] at h
      exact ⟨k + 1, le_rfl, hb.trans h, fun j _ _ => by omega⟩
    | none =>
      rw [hb] at h
      obtain ⟨i, hi, hfits, hnone⟩ := ih h
      refine ⟨i, by omega, hfits, fun j hij hj => ?_⟩
      rcases hj.eq_or_lt with rfl | hlt
      · exact hb
      · exact hnone j hij (by omega)

/-- The patches of a walk are those of its turns from `w` on: `walked` is this for the walk's first state. -/
def walkedFrom (m : List Nat) (sbx sbTop : Nat) (w : Walk) (ps : List RawPatch) : Prop :=
  ∃ (n : Nat) (st : Nat → Walk), 0 < n ∧ st 0 = w ∧ (∀ i < n, walkTurn m sbx (st i) (st (i + 1))) ∧
    (∀ i, i + 1 < n → (st (i + 1)).sb ≠ sbTop ∧ ((st i).k, (st i).msb) ≠ ((st (i + 1)).k, (st (i + 1)).msb)) ∧
    (st n).sb = sbTop ∧ (st n).ps = ps

/-- The states of a walk, with one before them. -/
def walkCons (w : Walk) (st : Nat → Walk) : Nat → Walk
  | 0 => w
  | i + 1 => st i

section
variable {m : List Nat} {sbx sbTop : Nat} {w v : Walk} {ps : List RawPatch}

theorem walkedFrom_last (h : walkTurn m sbx w v) (hend : v.sb = sbTop) : walkedFrom m sbx sbTop w v.ps := by
  refine ⟨1, walkCons w fun _ => v, Nat.one_pos, rfl, fun i hi => ?_, fun i hi => by omega, hend, rfl⟩
  obtain rfl : i = 0 := by omega
  exact h

theorem walkedFrom_turn (h : walkTurn m sbx w v) (hgo : v.sb ≠ sbTop) (hnew : (w.k, w.msb) ≠ (v.k, v.msb))
    (hrest : walkedFrom m sbx sbTop v ps) : walkedFrom m sbx sbTop w ps := by
  obtain ⟨n, st, -, hfirst, hturns, hgoes, hend, hps⟩ := hrest
  refine ⟨n + 1, walkCons w st, Nat.succ_pos n, rfl, fun i hi => ?_, fun i hi => ?_, hend, hps⟩
  · cases i with
    | zero => rw [← hfirst] at h; exact h
    | succ i => exact hturns i (by omega)
  · cases i with
    | zero => rw [← hfirst] at hgo hnew; exact ⟨hgo, hnew⟩
    | succ i => exact hgoes i (by omega)

/-- The variables of Patches after a turn that goes down to the border `sb` of parity `odd` (45_aspx_tables.md R306). -/
def nextWalk (m : List Nat) (sbx : Nat) (w : Walk) (sb odd : Nat) : Walk where
  k := if entry m w.k < sb + 3 then m.length - 1 else w.k
  msb := if 0 < sb - w.usb then sb else sbx
  usb := if 0 < sb - w.usb then sb else w.usb
  ps := if 0 < sb - w.usb then w.ps ++ [⟨(entry m 0 : Int) - odd - (sb - w.usb : Nat), w.usb, sb - w.usb⟩] else w.ps
  sb := sb

theorem walkTurn_nextWalk {sb odd : Nat} (hdown : walkDown m (entry m 0) w.msb w.k = some (sb, odd))
    (hlen : w.ps.length < 6) : walkTurn m sbx w (nextWalk m sbx w sb odd) := by
  obtain ⟨i, hi, hborder, hnone⟩ := walkDown_eq_some hdown
  obtain ⟨hfits, hsb⟩ := borderAt_eq_some_iff.1 hborder
  obtain ⟨rfl, rfl⟩ := Prod.mk.inj hsb
  refine ⟨hlen, ⟨i, hi, hfits, fun j hij hj => borderAt_eq_none_iff.1 (hnone j hij hj), rfl, fun hnew => ?_, fun hold => ?_⟩,
    rfl⟩
  · simp only [nextWalk] at hnew ⊢
    simp [hnew]
  · simp only [nextWalk] at hold ⊢
    simp [Nat.not_lt.2 hold]

/-- One turn of the outer loop: it is a turn of the walk, and the loop ends there or goes on from there
(45_aspx_tables.md R306). -/
theorem patchLoop_succ_ok {fuel : Nat} {last : Option (Nat × Nat)} (hlen : w.ps.length ≤ 6)
    (h : patchLoop m sbx sbTop (fuel + 1) w.k w.msb w.usb w.ps last = .ok ps) :
    last ≠ some (w.k, w.msb) ∧ ∃ v, walkTurn m sbx w v ∧
      if v.sb = sbTop then ps = v.ps
      else patchLoop m sbx sbTop fuel v.k v.msb v.usb v.ps (some (w.k, w.msb)) = .ok ps := by
  rw [patchLoop] at h
  dsimp only at h
  split at h
  · cases h
  next hlast =>
  split at h
  · cases h
  next sb odd hdown =>
  split at h
  · cases h
  next hsix =>
  refine ⟨hlast, nextWalk m sbx w sb odd, walkTurn_nextWalk hdown (by omega), ?_⟩
  by_cases hend : sb = sbTop
  · rw [if_pos hend] at h
    rw [if_pos (show (nextWalk m sbx w sb odd).sb = sbTop from hend)]
    exact (Except.ok.inj h).symm
  · rw [if_neg hend] at h
    rw [if_neg (show (nextWalk m sbx w sb odd).sb ≠ sbTop from hend)]
    exact h

theorem length_ps_of_walkTurn (h : walkTurn m sbx w v) : v.ps.length ≤ 6 := by
  obtain ⟨hlen, ⟨i, -, -, -, -, hnew, hold⟩, -⟩ := h
  rcases Nat.lt_or_ge w.usb v.sb with hlt | hle
  · obtain ⟨hps, -⟩ := hnew hlt
    rw [hps, List.length_append, List.length_singleton]
    omega
  · obtain ⟨hps, -⟩ := hold hle
    rw [hps]
    exact hlen.le

theorem patchLoop_ok {fuel : Nat} {last : Option (Nat × Nat)} (hlen : w.ps.length ≤ 6)
    (h : patchLoop m sbx sbTop fuel w.k w.msb w.usb w.ps last = .ok ps) :
    last ≠ some (w.k, w.msb) ∧ walkedFrom m sbx sbTop w ps := by
  induction fuel generalizing w last with
  | zero => cases h
  | succ fuel ih =>
    obtain ⟨hlast, v, hturn, hv⟩ := patchLoop_succ_ok hlen h
    refine ⟨hlast, ?_⟩
    split at hv
    · next hend => exact hv ▸ walkedFrom_last hturn hend
    · next hgo =>
      obtain ⟨hnew, hrest⟩ := ih (length_ps_of_walkTurn hturn) hv
      exact walkedFrom_turn hturn hgo (fun he => hnew (congrArg some he)) hrest

end

theorem patchList_ok {m : List Nat} {sbx sbTop : Nat} {ps : List RawPatch} (h : patchList m sbx sbTop = .ok ps) :
    ∃ all, walked m sbx sbTop all ∧ ps = dropNarrow all := by
  obtain ⟨all, hloop, hps⟩ := bind_ok.1 h
  rw [if_neg (show ¬goalSb sbTop < sbTop from Nat.lt_irrefl sbTop)] at hloop
  obtain ⟨-, hwalked⟩ := patchLoop_ok (w := ⟨m.length - 1, entry m 0, sbx, [], 0⟩) (Nat.zero_le 6) hloop
  exact ⟨all, hwalked, pure_ok.1 hps⟩

theorem dropNarrow_eq (ps : List RawPatch) :
    dropNarrow ps = if 1 < ps.length ∧ (∃ r ∈ ps.getLast?, r.count < 3) then ps.dropLast else ps := by
  unfold dropNarrow
  cases ps.getLast? <;> simp

/-! ### The patches tile the high band -/

/-- Patches in a row from `a` on. -/
def tiles : Nat → List RawPatch → Prop
  | _, [] => True
  | a, p :: l => p.dst = a ∧ tiles (a + p.count) l

theorem tiles_append {a : Nat} {l l' : List RawPatch} :
    tiles a (l ++ l') ↔ tiles a l ∧ tiles (a + (l.map (·.count)).sum) l' := by
  induction l generalizing a with
  | nil => simp [tiles]
  | cons p l ih => simp [tiles, ih, and_assoc, Nat.add_assoc]

theorem tiles_dropNarrow {a : Nat} {l : List RawPatch} (h : tiles a l) : tiles a (dropNarrow l) := by
  rw [dropNarrow_eq]
  split
  · next hdrop =>
    have hne : l ≠ [] := List.ne_nil_of_length_pos (by omega)
    rw [← List.dropLast_append_getLast hne, tiles_append] at h
    exact h.1
  · exact h

theorem head?_dst_of_tiles {a : Nat} {l : List RawPatch} (h : tiles a l) : ∀ r ∈ l.head?, r.dst = a := by
  cases l with
  | nil => nofun
  | cons p l =>
    rintro r ⟨⟩
    exact h.1

theorem isChain_of_tiles {a : Nat} {l : List RawPatch} (h : tiles a l) : l.IsChain fun r q => q.dst = r.dst + r.count := by
  induction l generalizing a with
  | nil => exact List.isChain_nil
  | cons p l ih =>
    obtain ⟨hdst, hrest⟩ := h
    refine List.isChain_cons.2 ⟨fun q hq => ?_, ih hrest⟩
    rw [hdst]
    exact head?_dst_of_tiles hrest q hq

/-- What the outer loop of Patches keeps: its patches tile the band from sbx up to usb. -/
def walkTiles (m : List Nat) (sbx sbTop : Nat) (w : Walk) : Prop :=
  w.k < m.length ∧ w.usb ≤ sbTop ∧ tiles sbx w.ps ∧ sbx + (w.ps.map (·.count)).sum = w.usb

section
variable {m : List Nat} {sbx sbTop : Nat} {w v : Walk} {ps : List RawPatch} (hm : ∀ i < m.length, entry m i ≤ sbTop)
include hm

/-- A turn keeps the tiling, and the band is tiled up to the border it went down to. -/
theorem walkTiles_of_walkTurn (hw : walkTiles m sbx sbTop w) (h : walkTurn m sbx w v) :
    walkTiles m sbx sbTop v ∧ v.sb ≤ v.usb := by
  obtain ⟨hk, husb, htiles, hsum⟩ := hw
  obtain ⟨-, ⟨i, hi, -, -, hsb, hnew, hold⟩, hvk⟩ := h
  have hsbTop : v.sb ≤ sbTop := hsb ▸ hm i (by omega)
  have hvk : v.k < m.length := by rw [hvk]; split <;> omega
  rcases Nat.lt_or_ge w.usb v.sb with hlt | hle
  · obtain ⟨hps, hvusb, -⟩ := hnew hlt
    refine ⟨⟨hvk, hvusb ▸ hsbTop, ?_, ?_⟩, hvusb.ge⟩
    · rw [hps, tiles_append, hsum]
      exact ⟨htiles, rfl, trivial⟩
    · rw [hps, hvusb, List.map_append, List.sum_append, ← Nat.add_assoc, hsum]
      simp only [List.map_singleton, List.sum_singleton]
      omega
  · obtain ⟨hps, hvusb, -⟩ := hold hle
    exact ⟨⟨hvk, hvusb ▸ husb, hps ▸ htiles, by rw [hps, hvusb, hsum]⟩, hvusb ▸ hle⟩

theorem tiles_of_walked (hpos : 0 < m.length) (hsbx : sbx ≤ sbTop) (h : walked m sbx sbTop ps) :
    tiles sbx ps ∧ sbx + (ps.map (·.count)).sum = sbTop := by
  obtain ⟨n, st, hn, hfirst, hturns, -, hend, hps⟩ := h
  have hkept (i : Nat) (hi : i ≤ n) : walkTiles m sbx sbTop (st i) := by
    induction i with
    | zero => rw [hfirst]; exact ⟨Nat.sub_lt hpos Nat.one_pos, hsbx, trivial, rfl⟩
    | succ i ih => exact (walkTiles_of_walkTurn hm (ih (by omega)) (hturns i hi)).1
  obtain ⟨j, rfl⟩ := Nat.exists_eq_add_of_le' hn
  obtain ⟨⟨-, husb, htiles, hsum⟩, hreached⟩ :=
    walkTiles_of_walkTurn hm (hkept j (by omega)) (hturns j (by omega))
  have hend : (st (j + 1)).sb = sbTop := hend
  rw [hps] at htiles hsum
  exact ⟨htiles, by omega⟩

end

/-! ### BuildTables -/

/-- The tables BuildTables checks, from the master table, the crossover offset and the patches (45_aspx_tables.md R301). -/
def tablesOf (m : List Nat) (xo : Nat) (nsb : Int) (ps : List RawPatch) : AspxTabs :=
  let sbx := entry m xo
  let sbTop := entry m (m.length - 1)
  let lo := lowRes (m.drop xo)
  ⟨m, m.drop xo, lo, noiseTable lo (noiseCount nsb sbx sbTop), limiterTable lo ps sbx, ps, sbx, sbTop⟩

theorem masterOk_iff {m : List Nat} : masterOk m = true ↔ tableOk (entry m 0) m = true ∧ 1 ≤ entry m 0 := by
  simp [masterOk]

theorem buildTables_ok {p : Params} {cfg : Int × Int × Int} {xo nsb : Int} {t : AspxTabs}
    (h : buildTables p cfg xo nsb = .ok t) :
    ∃ m ps, p.master cfg = some m ∧ masterOk m = true ∧ 0 ≤ xo ∧ xo.toNat < m.length - 1 ∧
      patchList m (entry m xo.toNat) (entry m (m.length - 1)) = .ok ps ∧ t = tablesOf m xo.toNat nsb ps ∧
      tablesOk t (noiseCount nsb t.sbx t.sbTop) = true := by
  unfold buildTables at h
  split at h
  · cases h
  next m hm =>
  simp only [bind_ok, require_ok, pure_ok, Bool.and_eq_true, decide_eq_true_eq] at h
  obtain ⟨-, hmaster, -, ⟨hxo, hlt⟩, ps, hps, -, hok, rfl⟩ := h
  exact ⟨m, ps, hm, hmaster, hxo, hlt, hps, rfl, hok⟩

theorem tablesOk_iff {t : AspxTabs} {nq : Nat} : tablesOk t nq = true ↔
    (∀ x ∈ [t.master, t.hi, t.lo, t.noise, t.lim], tableOk (entry t.master 0) x = true) ∧ 1 ≤ entry t.master 0 ∧
      groups t.hi ≤ 48 ∧ nq ≤ 5 ∧ t.patches.length ≤ 6 ∧ ∀ r ∈ t.patches, patchOk t.sbx t.sbTop r = true := by
  rw [tablesOk]
  simp only [Bool.and_eq_true, decide_eq_true_eq, List.all_eq_true, and_assoc]

theorem patchOk_iff {sbx sbTop : Nat} {r : RawPatch} : patchOk sbx sbTop r = true ↔
    1 ≤ r.count ∧ 0 ≤ r.src ∧ r.src + r.count ≤ sbx ∧ r.dst + r.count ≤ sbTop := by
  simp [patchOk, and_assoc]

/-- Settles O55: the checks of BuildTables, and each table by what its rule says of it. -/
theorem buildTablesFollowsRules : Obligations.BuildTablesFollowsRules := by
  intro p cfg xo nsb t h nh nl nq e pb
  obtain ⟨m, ps, hm, hmaster, hxo, hlt, hps, rfl, hok⟩ := buildTables_ok h
  obtain ⟨-, -, -, hnq, hsix, hpatches⟩ := tablesOk_iff.1 hok
  obtain ⟨hmaster, -⟩ := masterOk_iff.1 hmaster
  obtain ⟨all, hwalked, rfl⟩ := patchList_ok hps
  have htop : entry m (m.length - 1) ≤ 64 := (entry_bounds_of_tableOk hmaster (by omega)).2
  have hrise : entry m xo.toNat < entry m (m.length - 1) := entry_lt_of_tableOk hmaster hlt (by omega)
  obtain ⟨htiles, hsum⟩ := tiles_of_walked
    (fun i hi => entry_le_of_tableOk hmaster (show i ≤ m.length - 1 by omega) (by omega)) (by omega) hrise.le hwalked
  have hgroups : nq = noiseCount nsb (entry m xo.toNat) (entry m (m.length - 1)) := groups_noiseTable _ _
  have hgroupsLo : nl = nh - nh / 2 := groups_lowRes
  have hlo : (lowRes (m.drop xo.toNat)).head? = some (entry m xo.toNat) := by
    rw [head?_lowRes, entry_drop, Nat.add_zero]
  have hhi : (m.drop xo.toNat).head? = some (entry m xo.toNat) := by
    rw [head?_eq_entry (List.ne_nil_of_length_pos (by rw [List.length_drop]; omega)), entry_drop, Nat.add_zero]
  have htop? : m.getLast? = some (entry m (m.length - 1)) :=
    getLast?_eq_entry (List.ne_nil_of_length_pos (by omega))
  obtain ⟨hone, hlast, hnext⟩ := noiseCount_spec (nsb := nsb) hrise htop hnq
  rw [← hgroups] at hone hlast hnext
  exact ⟨hxo, show xo < (m.length : Int) - 1 by omega, hm, rfl, hhi, htop?, hgroupsLo, hlo,
    fun i hpos hi => entry_lowRes hpos (hgroupsLo ▸ hi), hone, hgroups.trans_le hnq, hlast, hnext,
    by rw [hgroups]; exact noiseTable_follows _ _,
    ⟨all, hwalked, hsum, dropNarrow_eq all⟩, hsix, fun r hr => patchOk_iff.1 (hpatches r hr),
    head?_dst_of_tiles (tiles_dropNarrow htiles), isChain_of_tiles (tiles_dropNarrow htiles),
    limiterTable_follows _ _ _⟩

end Sys2Proof.Proofs

/-! ASPXCFG (45_aspx_tables.md R300). BuildTables stops for one reason alone, and ASPXCFG is its choice between the tables
it has and those BuildTables answers. -/

namespace Sys2Proof.Proofs

open Sys2Proof Sys2Proof.Machine Sys2Proof.Laws Sys2Proof.Config

/-! ### BuildTables stops with InvalidAspxConfig alone -/

theorem stopsOnlyWith_raise {α : Type} (e : FatalError) : StopsOnlyWith e (raise e : Except Stop α) := by
  intro x hx
  cases hx
  rfl

/-- Pseudocode that can only stop with `e` raises `e` where it stops. -/
theorem eq_raise_of_stopsOnlyWith {α : Type} {e : FatalError} {r : Except Stop α} (hr : StopsOnlyWith e r) {x : Stop}
    (hx : r = .error x) : r = raise e := by
  rw [hx, hr x hx]
  rfl

theorem patchLoop_stopsOnlyWith (m : List Nat) (sbx sbTop fuel k msb usb : Nat) (ps : List RawPatch)
    (last : Option (Nat × Nat)) :
    StopsOnlyWith .invalidAspxConfig (patchLoop m sbx sbTop fuel k msb usb ps last) := by
  induction fuel generalizing k msb usb ps last with
  | zero => exact stopsOnlyWith_raise _
  | succ fuel ih =>
    unfold patchLoop
    dsimp only
    split
    · exact stopsOnlyWith_raise _
    · split
      · exact stopsOnlyWith_raise _
      · split
        · exact stopsOnlyWith_raise _
        · split
          · exact stopsOnlyWith_pure _ _
          · exact ih _ _ _ _ _

theorem patchList_stopsOnlyWith (m : List Nat) (sbx sbTop : Nat) :
    StopsOnlyWith .invalidAspxConfig (patchList m sbx sbTop) :=
  stopsOnlyWith_bind (patchLoop_stopsOnlyWith _ _ _ _ _ _ _ _ _) fun _ _ => stopsOnlyWith_pure _ _

theorem buildTables_stopsOnlyWith (p : Params) (cfg : Int × Int × Int) (xo nsb : Int) :
    StopsOnlyWith .invalidAspxConfig (buildTables p cfg xo nsb) := by
  unfold buildTables
  split
  · exact stopsOnlyWith_raise _
  · exact stopsOnlyWith_bind (stopsOnlyWith_require _ _) fun _ _ =>
      stopsOnlyWith_bind (stopsOnlyWith_require _ _) fun _ _ =>
        stopsOnlyWith_bind (patchList_stopsOnlyWith _ _ _) fun _ _ =>
          stopsOnlyWith_bind (stopsOnlyWith_require _ _) fun _ _ => stopsOnlyWith_pure _ _

/-! ### ASPXCFG -/

section
variable {s : State} {c : Fin 8}

theorem exec_aspxcfg (c : BitVec 4) (s : State) : exec (.aspxcfg c) s = s.command [c] (aspxcfgBody (slotOf c)) := rfl

/-- What BuildTables answers on the words of SIM[c] (45_aspx_tables.md R300). -/
def tablesBuilt (s : State) (c : Fin 8) : Except Stop AspxTabs :=
  buildTables s.cfg (s.aspxConfig c) (s.simWord c Sim.axXoverOffset) (s.simWord c Sim.axNoiseSbg)

theorem configuredTables_of_kept (hpending : s.resetPending c = false) (hvalid : (s.wAt c).tablesValid = true) :
    s.configuredTables c = .ok (s.wAt c) := by
  simp [State.configuredTables, hpending, hvalid]

theorem configuredTables_of_rebuilt (h : s.resetPending c = true ∨ (s.wAt c).tablesValid = false) :
    s.configuredTables c = (tablesBuilt s c >>= fun t => pure ((s.wAt c).withTables t)) := by
  have hrebuilt : (s.resetPending c || !(s.wAt c).tablesValid) = true := by simpa using h
  rw [State.configuredTables, if_pos hrebuilt]
  rfl

/-- W[c] after ASPXCFG, from the record with its tables (45_aspx_tables.md R300). -/
def configured (s : State) (c : Fin 8) (x : ChannelState) : ChannelState :=
  { x with
    masterResetPending := s.resetPending c
    cfgPrev := if s.frame.indep then some (s.aspxConfig c) else x.cfgPrev }

variable (hs : s.running) (hqmfa : s.done c .qmfa = true) (haxcfg : s.done c .axcfg = false)
include hs hqmfa haxcfg

theorem aspxcfgBody_of_error {e : Stop} (h : s.resetPending c = true ∨ (s.wAt c).tablesValid = false)
    (he : tablesBuilt s c = .error e) : aspxcfgBody c s = raise .invalidAspxConfig := by
  have hraise : tablesBuilt s c = raise .invalidAspxConfig :=
    eq_raise_of_stopsOnlyWith (buildTables_stopsOnlyWith _ _ _ _) he
  rw [aspxcfgBody, (requireOpen_ok (u := ())).2 hs.1, hqmfa, haxcfg, configuredTables_of_rebuilt h, hraise]
  rfl

theorem aspxcfgBody_eq {x : ChannelState} (h : s.configuredTables c = .ok x) :
    aspxcfgBody c s = .ok (filtered s c s.pcm s.qg (configured s c x) (s.chanAt c) .axcfg) :=
  aspxcfgBody_ok.2 ⟨hs.1, hqmfa, haxcfg, x, h, rfl⟩

end

/-- Settles O56: the command is its choice of tables, kept or built, and a BuildTables that fails raises
InvalidAspxConfig. -/
theorem aspxcfgRebuildsOnChange : Obligations.AspxcfgRebuildsOnChange := by
  intro s c hs hc x y cfg pending built prev ends hqmfa haxcfg
  have hends (z : ChannelState) (h : s.configuredTables x = .ok z) :
      ∃ t, ends t ∧ t.wAt x = configured s x z := by
    have hexec := command_of_body_ok hs hc (aspxcfgBody_eq hs hqmfa haxcfg h)
    refine ⟨_, ⟨hexec, filtered_endsOn, ⟨rfl, rfl, rfl⟩, rfl, ?_, ?_⟩, filtered_wAt⟩
    · rw [filtered_chanAt]
    · rw [filtered_chanAt]
      exact doneAdds_add _ _
  refine ⟨fun hpending hvalid => ?_, fun hrebuilt => ⟨fun e he => ?_, fun b hb => ?_⟩⟩
  · obtain ⟨t, ht, hw⟩ := hends y (configuredTables_of_kept hpending hvalid)
    have hkept : s.resetPending x = false := hpending
    exact ⟨t, ht, by rw [hw, configured, hkept]; rfl⟩
  · exact command_of_body_raise (e := .invalidAspxConfig) hs hc (aspxcfgBody_of_error hs hqmfa haxcfg hrebuilt he)
  · have hbuilt : tablesBuilt s x = .ok b := hb
    exact hends (y.withTables b) (by rw [configuredTables_of_rebuilt hrebuilt, hbuilt]; rfl)

end Sys2Proof.Proofs

/-! ASPXENV (45_aspx_tables.md R320 to R326). The time grid as a proposition; each envelope as the row its recurrence
gives; the rows in order, the first one out of range ending the command; then the entries they are stored at. -/

namespace Sys2Proof.Proofs

open Sys2Proof Sys2Proof.Machine Sys2Proof.Laws Sys2Proof.Config

variable {s : State} {c : Fin 8}

/-! ### The time grid -/

/-- A time grid that CheckGrid accepts (45_aspx_tables.md R321). -/
def gridLegal (s : State) (c : Fin 8) (nEnv nNoise : Nat) : Prop :=
  s.tenv c 0 = 0 ∧ (∃ ts : Nat, s.frame.numTs = some ts ∧ s.tenv c nEnv = ts ∧ s.tnoise c nNoise = ts) ∧
    (∀ l < nEnv, s.tenv c l < s.tenv c (l + 1)) ∧ s.tnoise c 0 = 0 ∧
    (∀ q < nNoise, s.tnoise c q < s.tnoise c (q + 1)) ∧ (∀ q ≤ nNoise, ∃ l ≤ nEnv, s.tnoise c q = s.tenv c l) ∧
    (∀ l < nEnv, (s.freqRes c l = 0 ∨ s.freqRes c l = 1) ∧
      (s.simWord c (Sim.axEnvDir l) = 0 ∨ s.simWord c (Sim.axEnvDir l) = 1)) ∧
    (∀ q < nNoise, s.simWord c (Sim.axNoiseDir q) = 0 ∨ s.simWord c (Sim.axNoiseDir q) = 1) ∧
    (s.frame.indep = true → s.simWord c (Sim.axEnvDir 0) = 0 ∧ s.simWord c (Sim.axNoiseDir 0) = 0)

theorem isFlag_iff {v : Int} : isFlag v = true ↔ v = 0 ∨ v = 1 := by simp [isFlag]

/-- Each check of CheckGrid, read as a proposition. -/
theorem gridOk_iff {nEnv nNoise : Nat} : s.gridOk c nEnv nNoise = true ↔ gridLegal s c nEnv nNoise := by
  simp only [State.gridOk, gridLegal, Bool.and_eq_true, List.all_eq_true, List.any_eq_true, List.mem_range,
    Option.any_eq_true, bind_pure_comp, Option.map_eq_map, Option.map_eq_some_iff, exists_exists_and_eq_and, isFlag_iff,
    decide_eq_true_eq, beq_iff_eq, Nat.lt_succ_iff, Bool.or_eq_true, Bool.not_eq_true', and_assoc, ← Bool.not_eq_true,
    ← imp_iff_not_or]

/-! ### Rows -/

/-- Row `l` of a two-dimensional array whose rows have `width l` entries. -/
def rowOfValues (width : Nat → Nat) (val : Nat → Nat → Int) (l : Nat) : List Int := (List.range (width l)).map (val l)

/-- The first `n` rows. -/
def rowsOfValues (width : Nat → Nat) (val : Nat → Nat → Int) (n : Nat) : List (List Int) :=
  (List.range n).map (rowOfValues width val)

/-- The row before row `l`: the history before the first one. -/
def rowBefore {w : Nat} (hist : Vector Int w) (width : Nat → Nat) (val : Nat → Nat → Int) : Nat → Nat → Option Int
  | 0 => fun k => hist[k]?
  | l + 1 => fun k => (rowOfValues width val l)[k]?

section
variable {w : Nat} {hist : Vector Int w} {width : Nat → Nat} {val : Nat → Nat → Int} {l k n : Nat}

theorem getElem?_rowOfValues (h : k < width l) : (rowOfValues width val l)[k]? = some (val l k) := by
  simp [rowOfValues, h]

theorem rowBefore_eq_some (h : if l = 0 then k < w else k < width (l - 1)) :
    rowBefore hist width val l k = some (if l = 0 then atD hist k 0 else val (l - 1) k) := by
  cases l with
  | zero =>
    rw [if_pos rfl] at h ⊢
    simp [rowBefore, atD, h]
  | succ l => exact getElem?_rowOfValues h

theorem rowOfValues_all_iff {p : Int → Bool} :
    (rowOfValues width val l).all p = true ↔ ∀ k < width l, p (val l k) = true := by
  simp [rowOfValues]

/-- An entry of the last of the first `n` rows. -/
theorem getD_lastRow (hn : 1 ≤ n) (h : k < width (n - 1)) :
    ((rowsOfValues width val n).getLast?.getD []).getD k 0 = val (n - 1) k := by
  obtain ⟨m, rfl⟩ := Nat.exists_eq_add_of_le' hn
  have hlast : (rowsOfValues width val (m + 1)).getLast? = some (rowOfValues width val m) := by
    simp [rowsOfValues, List.range_succ]
  rw [hlast, Option.getD_some, List.getD_eq_getElem?_getD, getElem?_rowOfValues (l := m) h, Option.getD_some]
  rfl

end

theorem runningSums_append_single (v d : Int) (l : List Int) :
    runningSums v (l ++ [d]) = runningSums v l ++ [v + (l ++ [d]).sum] := by
  induction l generalizing v with
  | nil => simp [runningSums]
  | cons x l ih => simp [runningSums, ih, Int.add_assoc]

/-- The running sums of a sequence (45_aspx_tables.md R322). -/
theorem runningSums_range (d : Nat → Int) (n : Nat) :
    runningSums 0 ((List.range n).map d) = (List.range n).map fun i => ((List.range (i + 1)).map d).sum := by
  induction n with
  | zero => rfl
  | succ n ih =>
    rw [List.range_succ, List.map_append, List.map_singleton, runningSums_append_single, ih, List.map_append,
      Int.zero_add, List.map_singleton, List.range_succ, List.map_append, List.map_singleton]

/-- A loop that answers its rows in order, each checked before the next one is decoded, answers them all or raises. -/
theorem checkedRows_eq {decode : Nat → Nat → Except Stop (List (List Int))} {row : Nat → List Int} {p : Int → Bool}
    {e : FatalError} {total : Nat} (hnil : ∀ l, decode 0 l = .ok [])
    (hcons : ∀ n l, l < total → decode (n + 1) l =
      (require ((row l).all p) e >>= fun _ => decode n (l + 1) >>= fun rest => pure (row l :: rest)))
    {n l : Nat} (hle : l + n ≤ total) :
    ((∀ k, l ≤ k → k < l + n → (row k).all p = true) → decode n l = .ok ((List.range' l n).map row)) ∧
      (¬(∀ k, l ≤ k → k < l + n → (row k).all p = true) → decode n l = raise e) := by
  induction n generalizing l with
  | zero => exact ⟨fun _ => hnil l, fun h => absurd (fun k _ _ => by omega) h⟩
  | succ n ih =>
    obtain ⟨hall, hsome⟩ := ih (l := l + 1) (by omega)
    rw [hcons n l (by omega)]
    cases hrow : (row l).all p with
    | false =>
      exact ⟨fun h => absurd (h l le_rfl (by omega)) (by rw [hrow]; exact Bool.false_ne_true), fun _ => rfl⟩
    | true =>
      refine ⟨fun h => ?_, fun h => ?_⟩
      · rw [hall fun k hk hlt => h k (by omega) (by omega)]
        rfl
      · rw [hsome fun hrest => h fun k hk hlt => ?_]
        · rfl
        · rcases hk.eq_or_lt with rfl | hgt
          · exact hrow
          · exact hrest k hgt (by omega)

/-! ### Signal envelopes -/

/-- The number of signal groups in envelope `l`. -/
def envWidth (s : State) (c : Fin 8) (l : Nat) : Nat :=
  groups (if s.freqRes c l = 1 then (s.wAt c).sbgHi else (s.wAt c).sbgLo)

theorem groups_sigTable (l : Nat) : groups ((s.wAt c).sigTable (s.freqRes c l == 1)) = envWidth s c l := by
  simp [ChannelState.sigTable, envWidth]

/-- The values of envelope `l` obey the recurrence of their direction (45_aspx_tables.md R322, R323). -/
def signalFollows (s : State) (c : Fin 8) (env : Nat → Nat → Int) (l : Nat) : Prop :=
  ∀ i < envWidth s c l,
    if s.simWord c (Sim.axEnvDir l) = 0 then
      env l i = ((List.range (i + 1)).map fun k => s.simWord c (Sim.axEnvDelta l k)).sum
    else ∃ k, resMap (s.wAt c) (s.freqRes c l == 1)
          (if l = 0 then (s.wAt c).freqResPrev else s.freqRes c (l - 1) == 1) i = some k ∧
        (if l = 0 then k < 48 else k < envWidth s c (l - 1)) ∧
        env l i = (if l = 0 then atD (s.wAt c).qscfPrev k 0 else env (l - 1) k) + s.simWord c (Sim.axEnvDelta l i)

/-- The frequency resolution of the envelope before envelope `l`. -/
def resBefore (s : State) (c : Fin 8) : Nat → Bool
  | 0 => (s.wAt c).freqResPrev
  | l + 1 => s.freqRes c l == 1

theorem resBefore_eq (l : Nat) :
    resBefore s c l = if l = 0 then (s.wAt c).freqResPrev else s.freqRes c (l - 1) == 1 := by
  cases l <;> rfl

section
variable {env : Nat → Nat → Int} {l : Nat}

theorem signalEnvelope_eq (hpos : 1 ≤ envWidth s c l) (h : signalFollows s c env l) :
    signalEnvelope s c l (rowBefore (s.wAt c).qscfPrev (envWidth s c) env l) (resBefore s c l) =
      .ok (rowOfValues (envWidth s c) env l) := by
  unfold signalEnvelope
  dsimp only
  rw [groups_sigTable]
  by_cases hdir : s.simWord c (Sim.axEnvDir l) = 0
  · rw [if_pos hdir, Nat.max_eq_left hpos, runningSums_range]
    refine congrArg Except.ok (List.map_congr_left fun i hi => ?_)
    have hi := h i (List.mem_range.1 hi)
    rw [if_pos hdir] at hi
    exact hi.symm
  · rw [if_neg hdir]
    refine mapE_of_forall fun i hi => ?_
    have hi := h i (List.mem_range.1 hi)
    rw [if_neg hdir] at hi
    obtain ⟨k, hmap, hk, hval⟩ := hi
    rw [resBefore_eq, hmap, Option.bind_some, rowBefore_eq_some hk, hval]
    rfl

/-- The bounds of a signal scale factor (45_aspx_tables.md R326). -/
def signalInRange (a v : Int) : Bool := decide (0 ≤ v) && decide (v ≤ 63 * a)

theorem signalInRange_iff {a v : Int} : signalInRange a v = true ↔ 0 ≤ v ∧ v ≤ 63 * a := by simp [signalInRange]

theorem decodeSignal_eq {a : Int} {nEnv : Nat} (hpos : ∀ l < nEnv, 1 ≤ envWidth s c l)
    (h : ∀ l < nEnv, signalFollows s c env l) :
    let decoded := decodeSignal s c a nEnv 0 (fun i => (s.wAt c).qscfPrev[i]?) (s.wAt c).freqResPrev
    let inRange := ∀ l < nEnv, ∀ i < envWidth s c l, signalInRange a (env l i) = true
    (inRange → decoded = .ok (rowsOfValues (envWidth s c) env nEnv)) ∧ (¬inRange → decoded = raise .outOfRange) := by
  have hrows := checkedRows_eq (row := rowOfValues (envWidth s c) env) (p := signalInRange a) (e := .outOfRange)
    (decode := fun n l => decodeSignal s c a n l (rowBefore (s.wAt c).qscfPrev (envWidth s c) env l) (resBefore s c l))
    (total := nEnv) (fun _ => rfl)
    (fun n l hl => by rw [decodeSignal, signalEnvelope_eq (hpos l hl) (h l hl)]; rfl) (Nat.zero_add nEnv).le
  simp only [Nat.zero_add, Nat.zero_le, true_implies, rowOfValues_all_iff, ← List.range_eq_range'] at hrows
  exact hrows

end

/-! ### Noise envelopes -/

/-- The values of noise envelope `q` obey the recurrence of their direction (45_aspx_tables.md R324). -/
def noiseFollows (s : State) (c : Fin 8) (nq : Nat) (noise : Nat → Nat → Int) (q : Nat) : Prop :=
  ∀ j < nq,
    if s.simWord c (Sim.axNoiseDir q) = 0 then
      noise q j = ((List.range (j + 1)).map fun k => s.simWord c (Sim.axNoiseDelta q k)).sum
    else
      noise q j = (if q = 0 then atD (s.wAt c).qnoisePrev j 0 else noise (q - 1) j) + s.simWord c (Sim.axNoiseDelta q j)

section
variable {noise : Nat → Nat → Int} {q nq : Nat}

theorem noiseEnvelope_eq (hnq : nq ≤ 5) (h : noiseFollows s c nq noise q) :
    noiseEnvelope s c nq q (rowBefore (s.wAt c).qnoisePrev (fun _ => nq) noise q) =
      .ok (rowOfValues (fun _ => nq) noise q) := by
  unfold noiseEnvelope
  by_cases hdir : s.simWord c (Sim.axNoiseDir q) = 0
  · rw [if_pos hdir, runningSums_range]
    refine congrArg Except.ok (List.map_congr_left fun j hj => ?_)
    have hj := h j (List.mem_range.1 hj)
    rw [if_pos hdir] at hj
    exact hj.symm
  · rw [if_neg hdir]
    refine mapE_of_forall fun j hj => ?_
    have hlt := List.mem_range.1 hj
    have hj := h j hlt
    rw [if_neg hdir] at hj
    have hbefore : if q = 0 then j < 5 else j < nq := by split <;> omega
    rw [rowBefore_eq_some hbefore, hj]
    rfl

/-- The bounds of a noise scale factor (45_aspx_tables.md R326). -/
def noiseInRange (v : Int) : Bool := decide (0 ≤ v) && decide (v ≤ 30)

theorem noiseInRange_iff {v : Int} : noiseInRange v = true ↔ 0 ≤ v ∧ v ≤ 30 := by simp [noiseInRange]

theorem decodeNoise_eq {nNoise : Nat} (hnq : nq ≤ 5) (h : ∀ q < nNoise, noiseFollows s c nq noise q) :
    let decoded := decodeNoise s c nq nNoise 0 (fun j => (s.wAt c).qnoisePrev[j]?)
    let inRange := ∀ q < nNoise, ∀ j < nq, noiseInRange (noise q j) = true
    (inRange → decoded = .ok (rowsOfValues (fun _ => nq) noise nNoise)) ∧ (¬inRange → decoded = raise .outOfRange) := by
  have hrows := checkedRows_eq (row := rowOfValues (fun _ => nq) noise) (p := noiseInRange) (e := .outOfRange)
    (decode := fun n q => decodeNoise s c nq n q (rowBefore (s.wAt c).qnoisePrev (fun _ => nq) noise q))
    (total := nNoise) (fun _ => rfl)
    (fun n q hq => by rw [decodeNoise, noiseEnvelope_eq hnq (h q hq)]; rfl) (Nat.zero_add nNoise).le
  simp only [Nat.zero_add, Nat.zero_le, true_implies, rowOfValues_all_iff, ← List.range_eq_range'] at hrows
  exact hrows

end

/-! ### Where the envelopes are stored -/

theorem rowEntries_range' (w r n : Nat) (row : Nat → List Int) :
    rowEntries w r ((List.range' r n).map row) = (List.range' r n).flatMap fun l => indexed (w * l) (row l) := by
  induction n generalizing r with
  | zero => rfl
  | succ n ih => rw [List.range'_succ, List.map_cons, rowEntries, ih, List.flatMap_cons]

section
variable {w n m : Nat} {width : Nat → Nat} {val : Nat → Nat → Int} {t : Tab Int m}

theorem mem_rowEntries {i : Nat} {v : Int} : (i, v) ∈ rowEntries w 0 (rowsOfValues width val n) ↔
    ∃ l < n, ∃ k < width l, i = w * l + k ∧ v = val l k := by
  rw [rowsOfValues, List.range_eq_range', rowEntries_range', List.mem_flatMap]
  simp only [← List.range_eq_range', List.mem_range, mem_indexed, rowOfValues, List.getElem?_map]
  refine exists_congr fun l => and_congr_right fun _ => ⟨?_, ?_⟩
  · rintro ⟨hle, hval⟩
    obtain ⟨k, hk, rfl⟩ := Option.map_eq_some_iff.1 hval
    obtain ⟨hlt, rfl⟩ := List.getElem?_eq_some_iff.1 hk
    rw [List.getElem_range]
    exact ⟨i - w * l, by simpa using hlt, by omega, rfl⟩
  · rintro ⟨k, hk, rfl, rfl⟩
    exact ⟨Nat.le_add_right _ _, by simp [hk]⟩

theorem at?_put_rows (hwidth : ∀ l < n, width l ≤ w) (hm : w * n ≤ m) {l k : Nat} (hl : l < n) (hk : k < width l) :
    (t.put (rowEntries w 0 (rowsOfValues width val n))).at? (w * l + k) = some (val l k) := by
  have hkw : k < w := hk.trans_le (hwidth l hl)
  have hend : w * (l + 1) ≤ w * n := Nat.mul_le_mul_left w hl
  rw [Nat.mul_succ] at hend
  refine at?_put_of_mem (by omega) (mem_rowEntries.2 ⟨l, hl, k, hk, rfl, rfl⟩) fun v hv => ?_
  obtain ⟨l', hl', k', hk', heq, rfl⟩ := mem_rowEntries.1 hv
  have hkw' : k' < w := hk'.trans_le (hwidth l' hl')
  obtain rfl : l = l' := by
    have hdiv := congrArg (· / w) heq
    simpa [Nat.mul_add_div (Nat.zero_lt_of_lt hkw), Nat.div_eq_of_lt hkw, Nat.div_eq_of_lt hkw'] using hdiv
  obtain rfl : k = k' := by omega
  rfl

theorem sameBut_put_rows : t.sameBut (fun i => ∃ l < n, ∃ k < width l, i = w * l + k)
    (t.put (rowEntries w 0 (rowsOfValues width val n))) := by
  intro i hi
  refine at?_put_of_not_mem fun v hv => hi ?_
  obtain ⟨l, hl, k, hk, rfl, -⟩ := mem_rowEntries.1 hv
  exact ⟨l, hl, k, hk, rfl⟩

end

/-! ### ASPXENV -/

theorem exec_aspxenv (c : BitVec 4) (s : State) : exec (.aspxenv c) s = s.command [c] (aspxenvBody (slotOf c)) := rfl

theorem qDiv_of_bad_mode (h0 : s.simWord c Sim.axQmode ≠ 0) (h1 : s.simWord c Sim.axQmode ≠ 1) :
    s.qDiv c = raise .invalidAspxConfig := by
  simp [State.qDiv, h0, h1]

theorem qDiv_of_mode {a : Int} (h : (s.simWord c Sim.axQmode = 0 ∧ a = 2) ∨ (s.simWord c Sim.axQmode = 1 ∧ a = 1)) :
    s.qDiv c = .ok a := by
  rcases h with ⟨hmode, rfl⟩ | ⟨hmode, rfl⟩ <;> simp [State.qDiv, hmode]

/-- W[c] after ASPXENV: the last envelopes are the history (45_aspx_tables.md R320). -/
def envelopeRecord (s : State) (c : Fin 8) (nEnv : Nat) (sig noise : List (List Int)) : ChannelState :=
  { s.wAt c with
    qscfPrev := Vector.ofFn fun i =>
      if i.val < envWidth s c (nEnv - 1) then (sig.getLast?.getD []).getD i.val 0 else 0
    freqResPrev := s.freqRes c (nEnv - 1) == 1
    qnoisePrev := Vector.ofFn fun j =>
      if j.val < groups (s.wAt c).sbgNoise then (noise.getLast?.getD []).getD j.val 0 else 0 }

/-- F[c] after ASPXENV, less the stage. -/
def envelopeFrame (s : State) (c : Fin 8) (sig noise : List (List Int)) : ChanFrame :=
  { s.chanAt c with
    qscf := (s.chanAt c).qscf.put (rowEntries maxSbg 0 sig)
    qnoise := (s.chanAt c).qnoise.put (rowEntries maxNoiseSbg 0 noise) }

section
variable (hs : s.running) (haxcfg : s.done c .axcfg = true) (haxenv : s.done c .axenv = false)
include hs haxcfg haxenv

theorem aspxenvBody_of_bad_mode (hmode : s.qDiv c = raise .invalidAspxConfig) :
    aspxenvBody c s = raise .invalidAspxConfig := by
  rw [aspxenvBody, (requireOpen_ok (u := ())).2 hs.1, haxcfg, haxenv, hmode]
  rfl

section
variable {a : Int} (ha : s.qDiv c = .ok a)
include ha

theorem aspxenvBody_of_bad_counts (h : s.simWord c Sim.axNumEnv < 1 ∨ 5 < s.simWord c Sim.axNumEnv ∨
    s.simWord c Sim.axNumNoise < 1 ∨ 2 < s.simWord c Sim.axNumNoise ∨
    s.simWord c Sim.axNumEnv < s.simWord c Sim.axNumNoise) : aspxenvBody c s = raise .invalidAspxConfig := by
  rw [aspxenvBody, (requireOpen_ok (u := ())).2 hs.1, haxcfg, haxenv, ha]
  cases hEnv : decide (1 ≤ s.simWord c Sim.axNumEnv) && decide (s.simWord c Sim.axNumEnv ≤ maxEnv) with
  | false => simp only [hEnv]; rfl
  | true =>
    have hNoise : (decide (1 ≤ s.simWord c Sim.axNumNoise) && decide (s.simWord c Sim.axNumNoise ≤ maxNoiseEnv) &&
        decide (s.simWord c Sim.axNumNoise ≤ s.simWord c Sim.axNumEnv)) = false := by
      simp only [Bool.and_eq_true, decide_eq_true_eq, ← Bool.not_eq_true, maxEnv, maxNoiseEnv] at hEnv ⊢
      omega
    simp only [hEnv, hNoise]
    rfl

variable {nEnv nNoise : Nat} (hnEnv : s.simWord c Sim.axNumEnv = nEnv) (hnNoise : s.simWord c Sim.axNumNoise = nNoise)
  (hcounts : 1 ≤ nEnv ∧ nEnv ≤ 5 ∧ 1 ≤ nNoise ∧ nNoise ≤ 2 ∧ nNoise ≤ nEnv)
include hnEnv hnNoise hcounts

/-- Behind its checks of mode and counts ASPXENV checks the grid and decodes. -/
theorem aspxenvBody_of_counts : aspxenvBody c s =
    (require (s.gridOk c nEnv nNoise) .invalidAspxConfig >>= fun _ =>
      decodeSignal s c a nEnv 0 (fun i => (s.wAt c).qscfPrev[i]?) (s.wAt c).freqResPrev >>= fun sig =>
        decodeNoise s c (groups (s.wAt c).sbgNoise) nNoise 0 (fun j => (s.wAt c).qnoisePrev[j]?) >>= fun noise =>
          pure (filtered s c s.pcm s.qg (envelopeRecord s c nEnv sig noise) (envelopeFrame s c sig noise) .axenv)) := by
  obtain ⟨hEnvLo, hEnvHi, hNoiseLo, hNoiseHi, hle⟩ := hcounts
  have hEnv : (decide (1 ≤ s.simWord c Sim.axNumEnv) && decide (s.simWord c Sim.axNumEnv ≤ maxEnv)) = true := by
    simp only [Bool.and_eq_true, decide_eq_true_eq, maxEnv]
    omega
  have hNoise : (decide (1 ≤ s.simWord c Sim.axNumNoise) && decide (s.simWord c Sim.axNumNoise ≤ maxNoiseEnv) &&
      decide (s.simWord c Sim.axNumNoise ≤ s.simWord c Sim.axNumEnv)) = true := by
    simp only [Bool.and_eq_true, decide_eq_true_eq, maxNoiseEnv]
    omega
  rw [aspxenvBody, (requireOpen_ok (u := ())).2 hs.1, haxcfg, haxenv, ha]
  simp only [hEnv, hNoise]
  simp only [hnEnv, hnNoise, Int.toNat_natCast, groups_sigTable, markDone_setChan]
  rfl

theorem aspxenvBody_of_bad_grid (hgrid : ¬gridLegal s c nEnv nNoise) :
    aspxenvBody c s = raise .invalidAspxConfig := by
  rw [aspxenvBody_of_counts hs haxcfg haxenv ha hnEnv hnNoise hcounts,
    Bool.eq_false_iff.2 fun hok => hgrid (gridOk_iff.1 hok)]
  rfl

variable {env noise : Nat → Nat → Int} (hgrid : gridLegal s c nEnv nNoise)
  (hwidth : ∀ l < nEnv, 1 ≤ envWidth s c l ∧ envWidth s c l ≤ 48) (hnq : groups (s.wAt c).sbgNoise ≤ 5)
  (hsignal : ∀ l < nEnv, signalFollows s c env l)
  (hfloor : ∀ q < nNoise, noiseFollows s c (groups (s.wAt c).sbgNoise) noise q)
include hgrid hwidth hnq hsignal hfloor

/-- On a legal grid ASPXENV stores the rows the recurrences give, if all lie in range. -/
theorem aspxenvBody_of_inRange (hrange : (∀ l < nEnv, ∀ i < envWidth s c l, 0 ≤ env l i ∧ env l i ≤ 63 * a) ∧
    ∀ q < nNoise, ∀ j < groups (s.wAt c).sbgNoise, 0 ≤ noise q j ∧ noise q j ≤ 30) :
    let sig := rowsOfValues (envWidth s c) env nEnv
    let floor := rowsOfValues (fun _ => groups (s.wAt c).sbgNoise) noise nNoise
    aspxenvBody c s =
      .ok (filtered s c s.pcm s.qg (envelopeRecord s c nEnv sig floor) (envelopeFrame s c sig floor) .axenv) := by
  obtain ⟨hsig, hnoise⟩ := hrange
  rw [aspxenvBody_of_counts hs haxcfg haxenv ha hnEnv hnNoise hcounts, gridOk_iff.2 hgrid,
    (decodeSignal_eq (fun l hl => (hwidth l hl).1) hsignal).1 fun l hl i hi => signalInRange_iff.2 (hsig l hl i hi),
    (decodeNoise_eq hnq hfloor).1 fun q hq j hj => noiseInRange_iff.2 (hnoise q hq j hj)]
  rfl

theorem aspxenvBody_of_outOfRange (hrange : ¬((∀ l < nEnv, ∀ i < envWidth s c l, 0 ≤ env l i ∧ env l i ≤ 63 * a) ∧
    ∀ q < nNoise, ∀ j < groups (s.wAt c).sbgNoise, 0 ≤ noise q j ∧ noise q j ≤ 30)) :
    aspxenvBody c s = raise .outOfRange := by
  obtain ⟨hsigOk, hsigRaise⟩ := decodeSignal_eq (a := a) (fun l hl => (hwidth l hl).1) hsignal
  obtain ⟨-, hnoiseRaise⟩ := decodeNoise_eq hnq hfloor
  simp only [signalInRange_iff, noiseInRange_iff] at hsigOk hsigRaise hnoiseRaise
  rw [aspxenvBody_of_counts hs haxcfg haxenv ha hnEnv hnNoise hcounts, gridOk_iff.2 hgrid]
  by_cases hsig : ∀ l < nEnv, ∀ i < envWidth s c l, 0 ≤ env l i ∧ env l i ≤ 63 * a
  · rw [hsigOk hsig, hnoiseRaise fun hnoise => hrange ⟨hsig, hnoise⟩]
    rfl
  · rw [hsigRaise hsig]
    rfl

end
end

/-! ### The history -/

section
variable {env noise : Nat → Nat → Int} {nEnv nNoise : Nat}

theorem envelopeRecord_qscfPrev (hpos : 1 ≤ nEnv) {floor : List (List Int)} {i : Nat} (hi : i < 48) :
    atD (envelopeRecord s c nEnv (rowsOfValues (envWidth s c) env nEnv) floor).qscfPrev i 0 =
      if i < envWidth s c (nEnv - 1) then env (nEnv - 1) i else 0 := by
  rw [envelopeRecord, atD_ofFn, dif_pos hi]
  exact if_ctx_congr Iff.rfl (getD_lastRow hpos) fun _ => rfl

theorem envelopeRecord_qnoisePrev (hpos : 1 ≤ nNoise) {sig : List (List Int)} {j : Nat} (hj : j < 5) :
    atD (envelopeRecord s c nEnv sig
        (rowsOfValues (fun _ => groups (s.wAt c).sbgNoise) noise nNoise)).qnoisePrev j 0 =
      if j < groups (s.wAt c).sbgNoise then noise (nNoise - 1) j else 0 := by
  rw [envelopeRecord, atD_ofFn, dif_pos hj]
  exact if_ctx_congr Iff.rfl (getD_lastRow (width := fun _ => groups (s.wAt c).sbgNoise) hpos) fun _ => rfl

end

/-- Settles O57: behind the checks of mode, counts and grid the command answers the rows the recurrences give, or raises
where one is out of range; what it stores is said of those rows. -/
theorem aspxenvDecodesEnvelopes : Obligations.AspxenvDecodesEnvelopes := by
  intro s c nEnv nNoise a env noise hs hc x y mode r n nq tenv tnoise dir ndir counts grid signal floor inRange haxcfg
    haxenv
  rw [exec_aspxenv]
  refine ⟨fun h0 h1 => command_of_body_raise (e := .invalidAspxConfig) hs hc
    (aspxenvBody_of_bad_mode hs haxcfg haxenv (qDiv_of_bad_mode h0 h1)), fun hmode => ?_⟩
  have ha : s.qDiv x = .ok a := qDiv_of_mode hmode
  refine ⟨fun h => command_of_body_raise (e := .invalidAspxConfig) hs hc
    (aspxenvBody_of_bad_counts hs haxcfg haxenv ha h), fun hnEnv hnNoise hcounts => ⟨fun hgrid =>
      command_of_body_raise (e := .invalidAspxConfig) hs hc
        (aspxenvBody_of_bad_grid hs haxcfg haxenv ha hnEnv hnNoise hcounts hgrid),
      fun hgrid hwidth _ hnq hsignal hfloor => ⟨fun hrange => ?_, fun hrange => ?_⟩⟩⟩
  · exact command_of_body_raise (e := .outOfRange) hs hc (aspxenvBody_of_outOfRange hs haxcfg haxenv ha hnEnv hnNoise
      hcounts hgrid hwidth hnq hsignal hfloor hrange)
  have hbody := aspxenvBody_of_inRange hs haxcfg haxenv ha hnEnv hnNoise hcounts hgrid hwidth hnq hsignal hfloor hrange
  obtain ⟨hEnvPos, hEnvLe, hNoisePos, hNoiseLe, -⟩ := hcounts
  refine ⟨_, command_of_body_ok hs hc hbody, filtered_endsOn, ⟨rfl, rfl, rfl⟩, rfl, ?_⟩
  rw [filtered_chanAt, filtered_wAt]
  exact ⟨rfl, doneAdds_add _ _,
    fun l hl i hi => at?_put_rows (w := 48) (fun l hl => (hwidth l hl).2) (by omega) hl hi,
    fun q hq j hj => at?_put_rows (w := 5) (fun _ _ => hnq) (by omega) hq hj,
    sameBut_put_rows, sameBut_put_rows, rfl,
    fun i hi => envelopeRecord_qscfPrev hEnvPos hi, fun j hj => envelopeRecord_qnoisePrev hNoisePos hj⟩

end Sys2Proof.Proofs

/-! ASPXHF (46_aspx_synthesis.md R340 to R345). The low band, its covariances, predictors and samples as values, which a
subband below 64 always has; the chirp factors; then the entries of Qhigh the patches feed, over the zeros of the high
band. -/

namespace Sys2Proof.Proofs

open Sys2Proof Sys2Proof.Machine Sys2Proof.Laws Sys2Proof.Config

/-! ### Lists -/

section
variable {α : Type}

theorem indexed_map_range' (f : Nat → α) (b n : Nat) :
    indexed b ((List.range' b n).map f) = (List.range' b n).map fun k => (k, f k) := by
  induction n generalizing b with
  | zero => rfl
  | succ n ih => rw [List.range'_succ, List.map_cons, indexed, ih, List.map_cons]

theorem indexed_map_range (f : Nat → α) (n : Nat) :
    indexed 0 ((List.range n).map f) = (List.range n).map fun k => (k, f k) := by
  rw [List.range_eq_range', indexed_map_range']

/-- Naturals as integers, as a `do` block over the list writes it. -/
theorem castRange_eq (n : Nat) : (do let k ← List.range n; pure (k : Int)) = (List.range n).map Int.ofNat := by
  rw [bind_pure_comp]
  rfl

theorem getElem?_map_range {f : Nat → α} {n i : Nat} (h : i < n) : ((List.range n).map f)[i]? = some (f i) := by
  rw [List.getElem?_map, List.getElem?_range h, Option.map_some]

theorem getD_map_range (f : Nat → α) (n i : Nat) (d : α) :
    ((List.range n).map f)[i]?.getD d = if i < n then f i else d := by
  split
  · next h => rw [getElem?_map_range h, Option.getD_some]
  · next h => rw [List.getElem?_eq_none (by simpa using h), Option.getD_none]

theorem put_append {n : Nat} {t : Tab α n} {l l' : List (Nat × α)} : t.put (l ++ l') = (t.put l).put l' :=
  List.foldl_append

end

/-! ### The low band -/

/-- Xl[t][sb], where it has a value. -/
def lowAt (p : Params) (ql : List Slot) (t : Int) (sb : Nat) : Cplx :=
  atD (ql.getD (t + p.histTs).toNat Slot.zero) sb Cplx.zero

/-- The term of phi(i, j) of subband `sb` at timeslot `t` (46_aspx_synthesis.md R341). -/
def covarianceTerm (p : Params) (ql : List Slot) (sb i j : Nat) (t : Int) : Cplx :=
  Cx.mul (lowAt p ql (t - i) sb) (Cx.conj (lowAt p ql (t - j) sb))

/-- phi(i, j) of subband `sb` (46_aspx_synthesis.md R341). -/
def covarianceAt (p : Params) (ql : List Slot) (n sb i j : Nat) : Cplx :=
  Cx.sum ((List.range (n + p.aspxDelay)).map fun k : Nat => covarianceTerm p ql sb i j ((k : Int) - p.aspxDelay))

/-- (alpha0, alpha1) of subband `sb` (46_aspx_synthesis.md R342). -/
def predictorAt (p : Params) (ql : List Slot) (n sb : Nat) : Cplx × Cplx :=
  let phi := covarianceAt p ql n sb
  solvePredictor (phi 0 1) (phi 0 2) (phi 1 1) (phi 1 2) (phi 2 2)

/-- HFSample(sb, b, ts) (46_aspx_synthesis.md R345). -/
def hfSampleAt (p : Params) (ql : List Slot) (n sb : Nat) (b : Real32) (ts : Nat) : Cplx :=
  let t : Int := (ts : Int) - p.aspxDelay
  let alpha := predictorAt p ql n sb
  Cx.add (Cx.add (lowAt p ql t sb) (Cx.mul (Cx.smul b alpha.1) (lowAt p ql (t - 1) sb)))
    (Cx.mul (Cx.smul (R32.mul b b) alpha.2) (lowAt p ql (t - 2) sb))

section
variable {p : Params} {ql : List Slot} {n sb : Nat}

theorem lowBand_eq {t : Int} (hlo : 0 ≤ t + p.histTs) (hhi : t + p.histTs < ql.length) (hsb : sb < 64) :
    lowBand p.histTs ql t sb = .ok (lowAt p ql t sb) := by
  have hrow : (t + p.histTs).toNat < ql.length := by omega
  rw [lowBand, if_pos hlo, lowAt, List.getElem?_eq_getElem hrow, Option.bind_some, List.getD_eq_getElem _ _ hrow, atD,
    Vector.getElem?_eq_getElem hsb]
  rfl

variable (hlen : ql.length = p.histTs + n) (hsb : sb < 64)
include hlen hsb

/-- The history of ASPX_DELAY + 2 timeslots reaches as far back as the covariances and the samples read. -/
theorem lowBand_of_history {k i : Nat} (hk : k < n + p.aspxDelay) (hi : i ≤ 2) :
    lowBand p.histTs ql ((k : Int) - p.aspxDelay - i) sb = .ok (lowAt p ql ((k : Int) - p.aspxDelay - i) sb) := by
  refine lowBand_eq ?_ ?_ hsb <;> simp only [hlen, Params.histTs] <;> omega

theorem covariance_eq {i j : Nat} (hi : i ≤ 2) (hj : j ≤ 2) :
    covariance p ql n sb i j = .ok (covarianceAt p ql n sb i j) := by
  unfold covariance
  rw [castRange_eq]
  refine bind_ok.2 ⟨_, mapE_of_forall (h := fun t => covarianceTerm p ql sb i j (t - p.aspxDelay)) fun t ht => ?_, ?_⟩
  · obtain ⟨k, hk, rfl⟩ := List.mem_map.1 ht
    have hk := List.mem_range.1 hk
    exact bind_ok.2 ⟨_, lowBand_of_history hlen hsb hk hi, bind_ok.2 ⟨_, lowBand_of_history hlen hsb hk hj, rfl⟩⟩
  · rw [List.map_map]
    rfl

theorem predictor_eq : predictor p ql n sb = .ok (predictorAt p ql n sb) := by
  have hphi {i j : Nat} (hi : i ≤ 2) (hj : j ≤ 2) := covariance_eq hlen hsb hi hj
  rw [predictor, hphi (i := 0) (j := 1) (by omega) (by omega), hphi (i := 0) (j := 2) (by omega) (by omega),
    hphi (i := 1) (j := 1) (by omega) (by omega), hphi (i := 1) (j := 2) (by omega) (by omega),
    hphi (i := 2) (j := 2) (by omega) (by omega)]
  rfl

theorem hfSample_eq {b : Real32} {ts : Nat} (hts : ts < n) :
    hfSample p ql (predictorAt p ql n sb) sb b ts = .ok (hfSampleAt p ql n sb b ts) := by
  have hlow {i : Nat} (hi : i ≤ 2) := lowBand_of_history hlen hsb (show ts < n + p.aspxDelay by omega) hi
  refine bind_ok.2 ⟨_, ?_, bind_ok.2 ⟨_, hlow (i := 1) (by omega), bind_ok.2 ⟨_, hlow (i := 2) (by omega), rfl⟩⟩⟩
  have hnow := hlow (i := 0) (by omega)
  rwa [Int.natCast_zero, Int.sub_zero] at hnow

end

/-! ### Modes and chirp factors -/

theorem invfMode_of_fin (m : Fin 4) : invfMode (m.val : Int) = .ok m := by fin_cases m <;> rfl

theorem invfMode_of_outside {v : Int} (h : v < 0 ∨ 3 < v) : invfMode v = raise .invalidAspxConfig := by
  rw [invfMode, if_neg (by omega), if_neg (by omega), if_neg (by omega), if_neg (by omega)]

theorem invfMode_stopsOnlyWith (v : Int) : StopsOnlyWith .invalidAspxConfig (invfMode v) := by
  by_cases h : v < 0 ∨ 3 < v
  · rw [invfMode_of_outside h]
    exact stopsOnlyWith_raise _
  · obtain ⟨m, rfl⟩ : ∃ m : Fin 4, v = m.val := ⟨⟨v.toNat, by omega⟩, by simp only; omega⟩
    rw [invfMode_of_fin]
    exact stopsOnlyWith_pure _ m

/-- The smoothed chirp factor of noise group `j` (46_aspx_synthesis.md R344). -/
def chirpAt (y : ChannelState) (mode : Nat → Fin 4) (j : Nat) : Real32 :=
  chirp (mode j) (atD y.invfPrev j 0) (atD y.chirpPrev j 0)

/-! ### The entries of Qhigh -/

/-- The zeros of the high band over `n` timeslots. -/
def highZeros (y : ChannelState) (n : Nat) : List (Nat × Cplx) :=
  (List.range' y.sbx (y.sbTop - y.sbx)).flatMap fun m => (List.range n).map fun ts => (hiIndex ts m, Cplx.zero)

/-- The sample that the pair `e` of a source and a target subband gives timeslot `ts`. -/
def patchSample (p : Params) (ql : List Slot) (n : Nat) (y : ChannelState) (bw : Nat → Real32) (e : Nat × Nat)
    (ts : Nat) : Cplx :=
  hfSampleAt p ql n e.1 (bw ((grp? y.sbgNoise e.2).getD 0)) ts

/-- The samples the patches feed the high band over `n` timeslots. -/
def patchEntries (p : Params) (ql : List Slot) (n : Nat) (y : ChannelState) (bw : Nat → Real32) : List (Nat × Cplx) :=
  (patchPairs y.patches).flatMap fun e => (List.range n).map fun ts => (hiIndex ts e.2, patchSample p ql n y bw e ts)

/-- The patches feed the high band from below it (45_aspx_tables.md R308). -/
def patchesFit (y : ChannelState) : Prop :=
  ∀ r ∈ y.patches, r.src + r.count ≤ y.sbx ∧ y.sbx ≤ r.dst ∧ r.dst + r.count ≤ y.sbTop

theorem mem_patchPairs {ps : List Patch} {e : Nat × Nat} :
    e ∈ patchPairs ps ↔ ∃ r ∈ ps, ∃ k < r.count, e = (r.src + k, r.dst + k) := by
  simp only [patchPairs, List.mem_flatMap, List.mem_map, List.mem_range, eq_comm]

theorem map_snd_patchPairs (ps : List Patch) :
    (patchPairs ps).map Prod.snd = ps.flatMap fun r => List.range' r.dst r.count := by
  simp only [patchPairs, List.map_flatMap, List.map_map, List.range'_eq_map_range]
  rfl

section
variable {p : Params} {ql : List Slot} {n i m : Nat} {v : Cplx} {y : ChannelState} {bw : Nat → Real32} {e : Nat × Nat}

theorem mem_highZeros : (i, v) ∈ highZeros y n ↔
    ∃ m, (y.sbx ≤ m ∧ m < y.sbTop) ∧ ∃ ts < n, i = hiIndex ts m ∧ v = Cplx.zero := by
  simp only [highZeros, List.mem_flatMap, List.mem_map, List.mem_range, List.mem_range'_1, Prod.mk.injEq]
  refine exists_congr fun m => and_congr (by omega) (exists_congr fun ts => and_congr_right fun _ => ?_)
  exact and_congr eq_comm eq_comm

theorem mem_patchEntries : (i, v) ∈ patchEntries p ql n y bw ↔
    ∃ e ∈ patchPairs y.patches, ∃ ts < n, i = hiIndex ts e.2 ∧ v = patchSample p ql n y bw e ts := by
  simp only [patchEntries, List.mem_flatMap, List.mem_map, List.mem_range, Prod.mk.injEq, eq_comm]

theorem patchPair_bounds (hfit : patchesFit y) (he : e ∈ patchPairs y.patches) :
    e.1 < y.sbx ∧ y.sbx ≤ e.2 ∧ e.2 < y.sbTop := by
  obtain ⟨r, hr, k, hk, rfl⟩ := mem_patchPairs.1 he
  obtain ⟨hsrc, hlo, hhi⟩ := hfit r hr
  exact ⟨by simp only; omega, by simp only; omega, by simp only; omega⟩

theorem hiIndex_inj {ts ts' m' : Nat} (hm : m < 64) (hm' : m' < 64) (h : hiIndex ts m = hiIndex ts' m') :
    ts = ts' ∧ m = m' := by
  simp only [hiIndex] at h
  omega

variable {t : Tab Cplx 2048} (hfit : patchesFit y) (htop : y.sbTop ≤ 64)
include hfit htop

/-- A subband that a patch feeds holds its samples: no other pair has the same target. -/
theorem at?_patched (hn : n ≤ 32) (hdisjoint : (y.patches.flatMap fun r => List.range' r.dst r.count).Nodup)
    (he : e ∈ patchPairs y.patches) {ts : Nat} (hts : ts < n) :
    (t.put (highZeros y n ++ patchEntries p ql n y bw)).at? (hiIndex ts e.2) =
      some (patchSample p ql n y bw e ts) := by
  obtain ⟨-, -, hhi⟩ := patchPair_bounds hfit he
  rw [put_append]
  refine at?_put_of_mem (by simp only [hiIndex]; omega) (mem_patchEntries.2 ⟨e, he, ts, hts, rfl, rfl⟩) fun w hw => ?_
  obtain ⟨e', he', ts', -, hindex, rfl⟩ := mem_patchEntries.1 hw
  obtain ⟨-, -, hhi'⟩ := patchPair_bounds hfit he'
  obtain ⟨rfl, htarget⟩ := hiIndex_inj (by omega) (by omega) hindex
  rw [← map_snd_patchPairs] at hdisjoint
  rw [List.inj_on_of_nodup_map hdisjoint he he' htarget]

/-- A subband of the high band that no patch feeds holds 0. -/
theorem at?_unpatched (hn : n ≤ 32) (hlo : y.sbx ≤ m) (hhi : m < y.sbTop)
    (hno : ∀ r ∈ y.patches, ¬(r.dst ≤ m ∧ m < r.dst + r.count)) {ts : Nat} (hts : ts < n) :
    (t.put (highZeros y n ++ patchEntries p ql n y bw)).at? (hiIndex ts m) = some Cplx.zero := by
  rw [put_append, at?_put_of_not_mem fun v hv => ?_]
  · refine at?_put_of_mem (by simp only [hiIndex]; omega) (mem_highZeros.2 ⟨m, ⟨hlo, hhi⟩, ts, hts, rfl, rfl⟩)
      fun w hw => ?_
    obtain ⟨-, -, -, -, -, rfl⟩ := mem_highZeros.1 hw
    rfl
  · obtain ⟨e, he, ts', -, hindex, -⟩ := mem_patchEntries.1 hv
    obtain ⟨-, -, hhi'⟩ := patchPair_bounds hfit he
    obtain ⟨-, rfl⟩ := hiIndex_inj (by omega) (by omega) hindex
    obtain ⟨r, hr, k, hk, rfl⟩ := mem_patchPairs.1 he
    exact hno r hr ⟨by simp only; omega, by simp only; omega⟩

omit htop in
theorem sameBut_put_high : t.sameBut (fun i => ∃ ts < n, ∃ m, y.sbx ≤ m ∧ m < y.sbTop ∧ i = 64 * ts + m)
    (t.put (highZeros y n ++ patchEntries p ql n y bw)) := by
  intro i hi
  refine at?_put_of_not_mem fun v hv => hi ?_
  rcases List.mem_append.1 hv with hv | hv
  · obtain ⟨m, ⟨hlo, hhi⟩, ts, hts, rfl, -⟩ := mem_highZeros.1 hv
    exact ⟨ts, hts, m, hlo, hhi, rfl⟩
  · obtain ⟨e, he, ts, hts, rfl, -⟩ := mem_patchEntries.1 hv
    obtain ⟨-, hlo, hhi⟩ := patchPair_bounds hfit he
    exact ⟨ts, hts, e.2, hlo, hhi, rfl⟩

end

/-! ### ASPXHF -/

theorem exec_aspxhf (c : BitVec 4) (s : State) : exec (.aspxhf c) s = s.command [c] (aspxhfBody (slotOf c)) := rfl

/-- W[c] after ASPXHF: modes, chirp factors and predictors are the history (46_aspx_synthesis.md R340). -/
def highRecord (p : Params) (ql : List Slot) (n : Nat) (mode : Nat → Fin 4) (y : ChannelState) : ChannelState :=
  let nq := groups y.sbgNoise
  { y with
    chirpPrev := Vector.ofFn fun j => ((List.range nq).map (chirpAt y mode))[j.val]?.getD (y.chirpPrev.get j)
    invfPrev := Vector.ofFn fun j => ((List.range nq).map mode)[j.val]?.getD (y.invfPrev.get j)
    alphaPrev := Vector.ofFn fun sb =>
      ((List.range y.sbx).map (predictorAt p ql n))[sb.val]?.getD (y.alphaPrev.get sb) }

/-- F[c] after ASPXHF, less the stage. -/
def highFrame (p : Params) (ql : List Slot) (n : Nat) (mode : Nat → Fin 4) (y : ChannelState) (f : ChanFrame) :
    ChanFrame :=
  { f with
    qhigh := f.qhigh.put (highZeros y n ++ patchEntries p ql n y (chirpAt y mode))
    chirp := f.chirp.put (indexed 0 ((List.range (groups y.sbgNoise)).map (chirpAt y mode))) }

section
variable {p : Params} {ql : List Slot} {n : Nat} {mode : Nat → Fin 4} {y : ChannelState} {f : ChanFrame}

theorem highRecord_chirpPrev {j : Nat} (hj : j < 5) : atD (highRecord p ql n mode y).chirpPrev j 0 =
    if j < groups y.sbgNoise then chirpAt y mode j else atD y.chirpPrev j 0 := by
  rw [highRecord, atD_ofFn, dif_pos hj, getD_map_range, get_eq_atD _ _ 0]

theorem highRecord_invfPrev {j : Nat} (hj : j < 5) : atD (highRecord p ql n mode y).invfPrev j 0 =
    if j < groups y.sbgNoise then mode j else atD y.invfPrev j 0 := by
  rw [highRecord, atD_ofFn, dif_pos hj, getD_map_range, get_eq_atD _ _ 0]

theorem highRecord_alphaPrev (sb : Fin 64) : (highRecord p ql n mode y).alphaPrev.get sb =
    if sb.val < y.sbx then predictorAt p ql n sb else y.alphaPrev.get sb := by
  simp only [highRecord, Vector.get_eq_getElem, Vector.getElem_ofFn, getD_map_range]

theorem highFrame_chirp (hnq : groups y.sbgNoise ≤ 5) (j : Nat) : (highFrame p ql n mode y f).chirp.at? j =
    if j < groups y.sbgNoise then some (chirpAt y mode j) else f.chirp.at? j := by
  rw [highFrame, indexed_map_range]
  simpa only [List.mem_range] using
    at?_put_map (t := f.chirp) (f := chirpAt y mode) (i := j) fun k hk => (List.mem_range.1 hk).trans_le hnq

/-- The column of a patched subband, whose noise group has a chirp factor. -/
theorem hfColumn_eq (hlen : ql.length = p.histTs + n) (hfit : patchesFit y) (htop : y.sbTop ≤ 64)
    (hgroup : ∀ m, y.sbx ≤ m → m < y.sbTop → (grp? y.sbgNoise m).isSome = true) {e : Nat × Nat}
    (he : e ∈ patchPairs y.patches) :
    hfColumn p ql n ((List.range y.sbx).map (predictorAt p ql n)) y.sbgNoise
        ((List.range (groups y.sbgNoise)).map (chirpAt y mode)) e.1 e.2 =
      .ok ((List.range n).map fun ts => (hiIndex ts e.2, patchSample p ql n y (chirpAt y mode) e ts)) := by
  obtain ⟨hsrc, hlo, hhi⟩ := patchPair_bounds hfit he
  obtain ⟨j, hj⟩ := Option.isSome_iff_exists.1 (hgroup e.2 hlo hhi)
  have hjlt : j < groups y.sbgNoise := List.mem_range.1 (List.mem_of_find?_eq_some hj)
  refine bind_ok.2 ⟨j, valueOf_ok.2 hj, bind_ok.2 ⟨_, valueOf_ok.2 (getElem?_map_range hjlt), bind_ok.2 ⟨_,
    valueOf_ok.2 (getElem?_map_range hsrc), mapE_of_forall fun ts hts => bind_ok.2 ⟨_,
      hfSample_eq hlen (by omega) (List.mem_range.1 hts), ?_⟩⟩⟩⟩
  rw [patchSample, hj, Option.getD_some]
  rfl

end

section
variable {s : State} {c : Fin 8} (hs : s.running) (haxenv : s.done c .axenv = true) (haxhf : s.done c .axhf = false)
include hs haxenv haxhf

theorem aspxhfBody_of_bad_mode (h : ∃ j < groups (s.wAt c).sbgNoise,
    s.simWord c (Sim.axInvfMode j) < 0 ∨ 3 < s.simWord c (Sim.axInvfMode j)) :
    aspxhfBody c s = raise .invalidAspxConfig := by
  obtain ⟨j, hj, hmode⟩ := h
  have hmodes : mapE (fun j => invfMode (s.simWord c (Sim.axInvfMode j))) (List.range (groups (s.wAt c).sbgNoise)) =
      raise .invalidAspxConfig :=
    mapE_of_raise (fun _ _ => invfMode_stopsOnlyWith _) (List.mem_range.2 hj) (invfMode_of_outside hmode)
  unfold aspxhfBody
  dsimp only
  rw [(requireOpen_ok (u := ())).2 hs.1, haxenv, haxhf, hmodes]
  rfl

theorem aspxhfBody_eq {n : Nat} {ql : List Slot} {mode : Nat → Fin 4}
    (hmode : ∀ j < groups (s.wAt c).sbgNoise, s.simWord c (Sim.axInvfMode j) = (mode j).val)
    (hslots : s.frame.numTs = some n) (hql : (s.chanAt c).qlow = some ql) (hlen : ql.length = s.cfg.histTs + n)
    (hle : (s.wAt c).sbx ≤ (s.wAt c).sbTop) (htop : (s.wAt c).sbTop ≤ 64) (hfit : patchesFit (s.wAt c))
    (hgroup : ∀ m, (s.wAt c).sbx ≤ m → m < (s.wAt c).sbTop → (grp? (s.wAt c).sbgNoise m).isSome = true) :
    aspxhfBody c s = .ok (filtered s c s.pcm s.qg (highRecord s.cfg ql n mode (s.wAt c))
      (highFrame s.cfg ql n mode (s.wAt c) (s.chanAt c)) .axhf) := by
  have hmodes : mapE (fun j => invfMode (s.simWord c (Sim.axInvfMode j))) (List.range (groups (s.wAt c).sbgNoise)) =
      .ok ((List.range (groups (s.wAt c).sbgNoise)).map mode) :=
    mapE_of_forall fun j hj => by rw [hmode j (List.mem_range.1 hj), invfMode_of_fin]
  have hpredictors : mapE (predictor s.cfg ql n) (List.range (s.wAt c).sbx) =
      .ok ((List.range (s.wAt c).sbx).map (predictorAt s.cfg ql n)) :=
    mapE_of_forall fun sb hsb => predictor_eq hlen (by have := List.mem_range.1 hsb; omega)
  have hchirps : ((indexed 0 ((List.range (groups (s.wAt c).sbgNoise)).map mode)).map fun e =>
      chirp e.2 (atD (s.wAt c).invfPrev e.1 0) (atD (s.wAt c).chirpPrev e.1 0)) =
        (List.range (groups (s.wAt c).sbgNoise)).map (chirpAt (s.wAt c) mode) := by
    rw [indexed_map_range, List.map_map]
    rfl
  have hcolumns := mapE_of_forall (l := patchPairs (s.wAt c).patches) fun e he =>
    hfColumn_eq (mode := mode) hlen hfit htop hgroup he
  refine bind_ok.2 ⟨(), requireOpen_ok.2 hs.1, bind_ok.2 ⟨(), require_ok.2 (by rw [haxenv, haxhf]; rfl), bind_ok.2 ⟨_,
    hmodes, bind_ok.2 ⟨n, valueOf_ok.2 hslots, bind_ok.2 ⟨ql, valueOf_ok.2 hql, bind_ok.2 ⟨_, hpredictors, ?_⟩⟩⟩⟩⟩⟩
  dsimp only
  rw [hchirps]
  refine bind_ok.2 ⟨_, hcolumns, ?_⟩
  rw [markDone_setChan, ← List.flatMap_def]
  rfl

end

/-- Settles O58: a mode outside 0..3 stops the command before anything else; with legal modes it leaves `highRecord` and
`highFrame`, whose entries are said above. -/
theorem aspxhfFillsHighBand : Obligations.AspxhfFillsHighBand := by
  intro s c n ql mode hs hc x y f nq low phi small r11 det alpha1 alpha0 target smoothed bw sample haxenv haxhf
  rw [exec_aspxhf]
  refine ⟨fun h => command_of_body_raise (e := .invalidAspxConfig) hs hc (aspxhfBody_of_bad_mode hs haxenv haxhf h),
    fun hmode hnq hslots hn hql hlen hle htop hfit hdisjoint hgroup => ?_⟩
  have hphi (p i j : Nat) : phi p i j = covarianceAt s.cfg ql n p i j := by
    simp only [phi]
    rw [castRange_eq, List.map_map]
    rfl
  have halpha (p : Nat) : (alpha0 p, alpha1 p) = predictorAt s.cfg ql n p := by
    simp only [alpha0, alpha1, det, r11, hphi]
    rfl
  have htarget (j : Nat) : target j = newBw (mode j) (atD y.invfPrev j 0) := by
    simp only [target]
    generalize mode j = m, atD y.invfPrev j 0 = m'
    fin_cases m <;> fin_cases m' <;> rfl
  have hbw (j : Nat) : bw j = chirpAt y mode j := by
    simp only [bw, smoothed, htarget]
    rfl
  have hsample (p : Nat) (b : Real32) (ts : Nat) : sample p b ts = hfSampleAt s.cfg ql n p b ts := by
    rw [hfSampleAt, ← halpha p]
    rfl
  have hbody := aspxhfBody_eq hs haxenv haxhf hmode hslots hql hlen hle htop hfit hgroup
  refine ⟨_, command_of_body_ok hs hc hbody, filtered_endsOn, ⟨rfl, rfl, rfl⟩, rfl, ?_⟩
  rw [filtered_chanAt, filtered_wAt]
  refine ⟨rfl, doneAdds_add _ _, fun r hr k hk j hj ts hts => ?_,
    fun m hlo hhi hno ts hts => at?_unpatched hfit htop hn hlo hhi hno hts, sameBut_put_high hfit, fun j => ?_, rfl,
    fun j hj => ?_, fun p => ?_⟩
  · refine (at?_patched hfit htop hn hdisjoint (mem_patchPairs.2 ⟨r, hr, k, hk, rfl⟩) hts).trans ?_
    rw [patchSample, hj, Option.getD_some, hsample, hbw]
  · rw [hbw]
    exact highFrame_chirp (p := s.cfg) (ql := ql) (n := n) hnq j
  · rw [hbw]
    exact ⟨highRecord_chirpPrev hj, highRecord_invfPrev hj⟩
  · rw [halpha]
    exact highRecord_alphaPrev p

end Sys2Proof.Proofs

/-! ASPXASM (46_aspx_synthesis.md R365, R366). The counters after each timeslot as the iterated advance of the record;
the timeslots as one list of writes to QG, of which no two name the same element. -/

namespace Sys2Proof.Proofs

open Sys2Proof Sys2Proof.Machine Sys2Proof.Laws Sys2Proof.Config

/-! ### Several writes to a memory space -/

section
variable {α : Type} [DecidableEq α] {m : Memory α} {l l' : List (Nat × α)}

theorem setAll_append : m.setAll (l ++ l') = (m.setAll l).setAll l' := List.foldl_append

/-- An element that is written, with one value alone, reads as it. -/
theorem read_setAll_of_mem {any : Nat → Nat → α} {i : Nat} {v : α} (hm : m.wf = true) (hv : (i, v) ∈ l)
    (huniq : ∀ w, (i, w) ∈ l → w = v) : (m.setAll l).read any i = v := by
  induction l generalizing m with
  | nil => cases hv
  | cons e l ih =>
    have hcons : m.setAll (e :: l) = (m.set e.1 e.2).setAll l := rfl
    rw [hcons]
    by_cases hlater : ∃ w, (i, w) ∈ l
    · obtain ⟨w, hw⟩ := hlater
      have hwv := huniq w (List.mem_cons_of_mem _ hw)
      exact ih (wf_set hm e.1 e.2) (hwv ▸ hw) fun u hu => huniq u (List.mem_cons_of_mem _ hu)
    · rcases List.mem_cons.1 hv with rfl | hv
      · rw [read_setAll_other any _ l i fun e he heq => hlater ⟨e.2, heq ▸ he⟩]
        exact read_set_self any hm i v
      · exact absurd ⟨v, hv⟩ hlater

end

/-! ### The counters -/

/-- The record after `k` timeslots (46_aspx_synthesis.md R365). -/
def countersAfter (y : ChannelState) (k : Nat) : ChannelState := advanceCounters^[k] y

/-- One more advance of a counter that advances where `p` holds. -/
theorem val_ite_add_one {p : Prop} [Decidable p] {n k : Nat} [NeZero n] {v w : Fin n}
    (h : v.val = if p then (w.val + k) % n else w.val) :
    (if p then v + 1 else v).val = if p then (w.val + (k + 1)) % n else w.val := by
  split
  · next hp => rw [if_pos hp] at h; rw [Fin.val_add, h, Fin.val_one', Nat.add_mod_mod, Nat.mod_add_mod, Nat.add_assoc]
  · next hp => rwa [if_neg hp] at h

section
variable {y : ChannelState} {k : Nat}

theorem countersAfter_succ : countersAfter y (k + 1) = advanceCounters (countersAfter y k) :=
  Function.iterate_succ_apply' ..

theorem countersAfter_keeps : countersAfter y k =
    { y with noiseIdx := (countersAfter y k).noiseIdx, sineIdx := (countersAfter y k).sineIdx } := by
  induction k with
  | zero => rfl
  | succ k ih =>
    rw [countersAfter_succ, ih]
    rfl

theorem countersAfter_sbx : (countersAfter y k).sbx = y.sbx := by rw [countersAfter_keeps]

theorem countersAfter_sbTop : (countersAfter y k).sbTop = y.sbTop := by rw [countersAfter_keeps]

theorem advanceCounters_noiseIdx (m : Fin 64) : (advanceCounters y).noiseIdx.get m =
    if y.sbx ≤ m.val ∧ m.val < y.sbTop then y.noiseIdx.get m + 1 else y.noiseIdx.get m := by
  simp [advanceCounters, Vector.get_eq_getElem]

theorem advanceCounters_sineIdx (m : Fin 64) : (advanceCounters y).sineIdx.get m =
    if y.sbx ≤ m.val ∧ m.val < y.sbTop then y.sineIdx.get m + 1 else y.sineIdx.get m := by
  simp [advanceCounters, Vector.get_eq_getElem]

theorem countersAfter_noiseIdx (m : Fin 64) : ((countersAfter y k).noiseIdx.get m).val =
    if y.sbx ≤ m.val ∧ m.val < y.sbTop then ((y.noiseIdx.get m).val + k) % 512 else (y.noiseIdx.get m).val := by
  induction k with
  | zero => exact (ite_eq_right_iff.2 fun _ => Nat.mod_eq_of_lt (y.noiseIdx.get m).isLt).symm
  | succ k ih =>
    rw [countersAfter_succ, advanceCounters_noiseIdx, countersAfter_sbx, countersAfter_sbTop]
    exact val_ite_add_one ih

theorem countersAfter_sineIdx (m : Fin 64) : ((countersAfter y k).sineIdx.get m).val =
    if y.sbx ≤ m.val ∧ m.val < y.sbTop then ((y.sineIdx.get m).val + k) % 4 else (y.sineIdx.get m).val := by
  induction k with
  | zero => exact (ite_eq_right_iff.2 fun _ => Nat.mod_eq_of_lt (y.sineIdx.get m).isLt).symm
  | succ k ih =>
    rw [countersAfter_succ, advanceCounters_sineIdx, countersAfter_sbx, countersAfter_sbTop]
    exact val_ite_add_one ih

end

/-! ### What a subband gains -/

/-- Sine(i, m) by the table of its four phases (46_aspx_synthesis.md R366). -/
theorem sine_eq (i : Fin 4) (m : Nat) : Tables.sine i m =
    ⟨R32.ofInt ([1, 0, -1, 0].getD i.val 0),
      R32.mul (R32.ofInt (if m % 2 = 0 then 1 else -1)) (R32.ofInt ([0, 1, 0, -1].getD i.val 0))⟩ := by
  fin_cases i <;> rfl

/-- The scaled high band, the noise of counter `i` and the tone of phase `k` in subband `m` (46_aspx_synthesis.md
R365). -/
def bandSum (p : Params) (gain noise tone : Real32) (hi : Cplx) (i : Fin 512) (k : Fin 4) (m : Nat) : Cplx :=
  Cx.add (Cx.add (Cx.smul gain hi) (Cx.smul noise (p.noiseTab.get i))) (Cx.smul tone (Tables.sine k m))

theorem assembled_eq {p : Params} {y : ChannelState} {f : ChanFrame} {l ts m : Nat} {gain noise tone : Real32}
    {hi : Cplx} (hgain : f.gainS.at? (64 * l + m) = some gain) (hnoise : f.lvlN.at? (64 * l + m) = some noise)
    (htone : f.lvlT.at? (64 * l + m) = some tone) (hhi : f.qhigh.at? (64 * ts + m) = some hi) :
    assembled p y f l ts m = .ok (bandSum p gain noise tone hi (atD y.noiseIdx m 0) (atD y.sineIdx m 0) m) :=
  bind_ok.2 ⟨_, valueOf_ok.2 hgain, bind_ok.2 ⟨_, valueOf_ok.2 hnoise, bind_ok.2 ⟨_, valueOf_ok.2 htone,
    bind_ok.2 ⟨_, valueOf_ok.2 hhi, rfl⟩⟩⟩⟩

/-! ### The timeslots -/

/-- The high band of a record. -/
def highBand (y : ChannelState) : List Nat := List.range' y.sbx (y.sbTop - y.sbx)

theorem mem_highBand {y : ChannelState} {m : Nat} : m ∈ highBand y ↔ y.sbx ≤ m ∧ m < y.sbTop := by
  simp only [highBand, List.mem_range'_1]
  omega

/-- The grid's value of subband `m` in timeslot `ts` with `added` added. -/
def raisedAt (s : State) (c : Fin 8) (added : Nat → Nat → Cplx) (ts m : Nat) : Cplx :=
  Cx.add (s.gridAt c.val ts m) (added ts m)

/-- The writes to QG of timeslot `ts`. -/
def slotWrites (s : State) (c : Fin 8) (added : Nat → Nat → Cplx) (ts : Nat) : List (Nat × Word) :=
  (highBand (s.wAt c)).flatMap fun m => indexed (qgIndex c.val ts m) (cplxElems (raisedAt s c added ts m))

/-- Every timeslot below `n` lies in envelope `env ts`, under which each subband gains `added`. -/
def assembles (s : State) (c : Fin 8) (env : Nat → Nat) (added : Nat → Nat → Cplx) (n : Nat) : Prop :=
  ∀ ts < n, s.envelopeAt c ts = some (env ts) ∧ ∀ m ∈ highBand (s.wAt c),
    assembled s.cfg (countersAfter (s.wAt c) ts) (s.chanAt c) (env ts) ts m = .ok (added ts m)

section
variable {s : State} {c : Fin 8} {env : Nat → Nat} {added : Nat → Nat → Cplx} {n : Nat} {qg : Memory Word}

theorem assembleSlot_eq (h : assembles s c env added n) {ts : Nat} (hts : ts < n) :
    assembleSlot s c ts (countersAfter (s.wAt c) ts) qg =
      .ok (countersAfter (s.wAt c) (ts + 1), qg.setAll (slotWrites s c added ts)) := by
  obtain ⟨henv, hadded⟩ := h ts hts
  unfold assembleSlot
  rw [countersAfter_sbx, countersAfter_sbTop]
  refine bind_ok.2 ⟨_, valueOf_ok.2 henv, bind_ok.2 ⟨_, mapE_of_forall fun m hm => bind_ok.2 ⟨_, hadded m hm, rfl⟩, ?_⟩⟩
  rw [← List.flatMap_def, ← countersAfter_succ]
  rfl

/-- The timeslots from `b` on write their rows one after another. -/
theorem assembleSlots_eq (h : assembles s c env added n) {b k : Nat} (hle : b + k ≤ n) :
    assembleSlots s c (List.range' b k) (countersAfter (s.wAt c) b, qg) =
      .ok (countersAfter (s.wAt c) (b + k), qg.setAll ((List.range' b k).flatMap (slotWrites s c added))) := by
  induction k generalizing b qg with
  | zero => rfl
  | succ k ih =>
    rw [List.range'_succ, assembleSlots, assembleSlot_eq h (by omega), List.flatMap_cons, setAll_append,
      show b + (k + 1) = b + 1 + k by omega]
    exact ih (by omega)

/-! ### The writes to QG -/

/-- Every write of the command to QG. -/
def gridWrites (s : State) (c : Fin 8) (added : Nat → Nat → Cplx) (n : Nat) : List (Nat × Word) :=
  (List.range n).flatMap (slotWrites s c added)

theorem mem_gridWrites {e : Nat} {v : Word} : (e, v) ∈ gridWrites s c added n ↔
    ∃ ts < n, ∃ m ∈ highBand (s.wAt c), qgIndex c.val ts m ≤ e ∧
      (cplxElems (raisedAt s c added ts m))[e - qgIndex c.val ts m]? = some v := by
  simp only [gridWrites, slotWrites, List.mem_flatMap, List.mem_range, mem_indexed]

theorem lt_two_of_cplxElems {z : Cplx} {j : Nat} {v : Word} (h : (cplxElems z)[j]? = some v) : j < 2 :=
  (List.getElem?_eq_some_iff.1 h).1

variable {any : Nat → Nat → Word}

theorem read_gridWrites_other {e : Nat} (h : ∀ ts < n, ∀ m, (s.wAt c).sbx ≤ m → m < (s.wAt c).sbTop →
    e ≠ qgIndex c.val ts m ∧ e ≠ qgIndex c.val ts m + 1) :
    (qg.setAll (gridWrites s c added n)).read any e = qg.read any e := by
  refine read_setAll_other any qg _ e fun ⟨e', v⟩ hw heq => ?_
  obtain rfl : e' = e := heq
  obtain ⟨ts, hts, m, hm, hle, hv⟩ := mem_gridWrites.1 hw
  obtain ⟨hlo, hhi⟩ := mem_highBand.1 hm
  have hplace := h ts hts m hlo hhi
  have hlt := lt_two_of_cplxElems hv
  omega

/-- A subband of the high band reads as its raised value: below 64 subbands no two places of QG coincide. -/
theorem read_gridWrites_self (hqg : qg.wf = true) (htop : (s.wAt c).sbTop ≤ 64) {ts m j : Nat} {v : Word} (hts : ts < n)
    (hlo : (s.wAt c).sbx ≤ m) (hhi : m < (s.wAt c).sbTop) (hv : (cplxElems (raisedAt s c added ts m))[j]? = some v) :
    (qg.setAll (gridWrites s c added n)).read any (qgIndex c.val ts m + j) = v := by
  have hmem : (qgIndex c.val ts m + j, v) ∈ gridWrites s c added n :=
    mem_gridWrites.2 ⟨ts, hts, m, mem_highBand.2 ⟨hlo, hhi⟩, by omega, by rwa [Nat.add_sub_cancel_left]⟩
  refine read_setAll_of_mem hqg hmem fun w hw => ?_
  obtain ⟨ts', -, m', hm', hle, hw⟩ := mem_gridWrites.1 hw
  obtain ⟨-, hhi'⟩ := mem_highBand.1 hm'
  have hj := lt_two_of_cplxElems hv
  have hj' := lt_two_of_cplxElems hw
  obtain ⟨rfl, rfl⟩ : ts = ts' ∧ m = m' := by
    simp only [qgIndex_eq] at hle hj'
    omega
  rw [Nat.add_sub_cancel_left, hv] at hw
  exact (Option.some.inj hw).symm

end

/-! ### ASPXASM -/

theorem exec_aspxasm (c : BitVec 4) (s : State) : exec (.aspxasm c) s = s.command [c] (aspxasmBody (slotOf c)) := rfl

theorem find?_range_of_first {n i : Nat} {p : Nat → Bool} (hi : i < n) (hp : p i = true)
    (hfirst : ∀ k < i, ¬p k = true) : (List.range n).find? p = some i :=
  List.find?_range_eq_some.2 ⟨hp, List.mem_range.2 hi, fun k hk => by rw [Bool.eq_false_iff.2 (hfirst k hk)]; rfl⟩

section
variable {s : State} {c : Fin 8}

/-- The first envelope that holds a timeslot (46_aspx_synthesis.md R365). -/
theorem envelopeAt_eq {ts l : Nat} (hcount : (l : Int) < s.simWord c Sim.axNumEnv) (hend : Sim.axTenv 1 + l < simStride)
    (hholds : s.tenv c l ≤ ts ∧ (ts : Int) < s.tenv c (l + 1))
    (hfirst : ∀ k < l, ¬(s.tenv c k ≤ ts ∧ (ts : Int) < s.tenv c (k + 1))) : s.envelopeAt c ts = some l :=
  find?_range_of_first (by omega) (by simpa using hholds) fun k hk => by simpa using hfirst k hk

theorem aspxasmBody_eq {n : Nat} {env : Nat → Nat} {added : Nat → Nat → Cplx} (hs : s.running)
    (haxgain : s.done c .axgain = true) (haxasm : s.done c .axasm = false) (hslots : s.frame.numTs = some n)
    (h : assembles s c env added n) :
    aspxasmBody c s = .ok (filtered s c s.pcm (s.qg.setAll (gridWrites s c added n)) (countersAfter (s.wAt c) n)
      (s.chanAt c) .axasm) := by
  have hrun := assembleSlots_eq (qg := s.qg) h (Nat.zero_add n).le
  rw [Nat.zero_add, ← List.range_eq_range'] at hrun
  exact aspxasmBody_ok.2 ⟨hs.1, haxgain, haxasm, n, _, _, hslots, hrun, rfl⟩

end

/-- Settles O60: in every timeslot the envelope and the counters are those the statement names, so the command is the
writes `gridWrites` and `n` advances of the counters. -/
theorem aspxasmAssembles : Obligations.AspxasmAssembles := by
  intro s c n env gain noise tone hi hs hc x y f added holds haxgain haxasm hslots _ htop hwf hvals
  have hadded (ts m : Nat) (hlo : y.sbx ≤ m) (hhi : m < y.sbTop) :
      bandSum s.cfg (gain (env ts) m) (noise (env ts) m) (tone (env ts) m) (hi ts m)
        (atD (countersAfter y ts).noiseIdx m 0) (atD (countersAfter y ts).sineIdx m 0) m = added ts m := by
    have hm : m < 64 := by omega
    have hnoise := countersAfter_noiseIdx (y := y) (k := ts) ⟨m, hm⟩
    have hsine := countersAfter_sineIdx (y := y) (k := ts) ⟨m, hm⟩
    rw [if_pos ⟨hlo, hhi⟩, get_eq_atD _ _ 0, get_eq_atD _ _ 0] at hnoise hsine
    rw [bandSum, sine_eq, hsine, get_eq_atD _ _ Cplx.zero, hnoise]
  have hassembles : assembles s x env added n := fun ts hts => by
    obtain ⟨⟨hcount, hend, hholds, hfirst⟩, hlevels⟩ := hvals ts hts
    refine ⟨envelopeAt_eq hcount hend hholds hfirst, fun m hm => ?_⟩
    obtain ⟨hlo, hhi⟩ := mem_highBand.1 hm
    obtain ⟨hgain, hnoise, htone, hhigh⟩ := hlevels m hlo hhi
    rw [assembled_eq hgain hnoise htone hhigh, hadded ts m hlo hhi]
  rw [exec_aspxasm]
  refine ⟨_, command_of_body_ok hs hc (aspxasmBody_eq hs haxgain haxasm hslots hassembles), filtered_endsOn, rfl, rfl,
    rfl, ?_⟩
  rw [filtered_chanAt, filtered_wAt]
  refine ⟨rfl, doneAdds_add _ _, countersAfter_keeps, fun m => ⟨countersAfter_noiseIdx m, countersAfter_sineIdx m⟩,
    fun ts hts m hlo hhi => ?_, fun e he => read_gridWrites_other he⟩
  exact congrArg₂ Cplx.mk (read_gridWrites_self (j := 0) hwf htop hts hlo hhi rfl)
    (read_gridWrites_self (j := 1) hwf htop hts hlo hhi rfl)

end Sys2Proof.Proofs

/-! ASPXGAIN (46_aspx_synthesis.md R350 to R358). The partner's checks as one proposition; what each value ASPXGAIN
reads makes of a subband; the limiter's sums over the subbands of a group; then the entries the levels are stored at. -/

namespace Sys2Proof.Proofs

open Sys2Proof Sys2Proof.Machine Sys2Proof.Laws Sys2Proof.Config

variable {s : State} {c : Fin 8}

/-! ### Balance pairs -/

theorem qDiv_ok_iff {a : Int} : s.qDiv c = .ok a ↔
    (s.simWord c Sim.axQmode = 0 ∧ a = 2) ∨ (s.simWord c Sim.axQmode = 1 ∧ a = 1) := by
  refine ⟨fun h => ?_, qDiv_of_mode⟩
  by_cases h0 : s.simWord c Sim.axQmode = 0
  · rw [qDiv_of_mode (.inl ⟨h0, rfl⟩)] at h
    exact .inl ⟨h0, (Except.ok.inj h).symm⟩
  · by_cases h1 : s.simWord c Sim.axQmode = 1
    · rw [qDiv_of_mode (.inr ⟨h1, rfl⟩)] at h
      exact .inr ⟨h1, (Except.ok.inj h).symm⟩
    · rw [qDiv_of_bad_mode h0 h1] at h
      cases h

theorem qDiv_stopsOnlyWith : StopsOnlyWith .invalidAspxConfig (s.qDiv c) := by
  intro e he
  by_cases h : s.simWord c Sim.axQmode = 0 ∨ s.simWord c Sim.axQmode = 1
  · obtain ⟨a, ha⟩ : ∃ a, s.qDiv c = .ok a :=
      h.elim (fun h => ⟨2, qDiv_of_mode (.inl ⟨h, rfl⟩)⟩) fun h => ⟨1, qDiv_of_mode (.inr ⟨h, rfl⟩)⟩
    rw [ha] at he
    cases he
  · obtain ⟨h0, h1⟩ := not_or.1 h
    exact stopsOnlyWith_raise _ e (qDiv_of_bad_mode h0 h1 ▸ he)

/-- Slots with equal modes have equal divisors. -/
theorem qDiv_eq_iff {d : Fin 8} {a : Int} (ha : s.qDiv c = .ok a) :
    s.qDiv d = .ok a ↔ s.simWord d Sim.axQmode = s.simWord c Sim.axQmode := by
  rw [qDiv_ok_iff] at ha ⊢
  omega

theorem sameWords_iff {d : Fin 8} {base n : Nat} : s.sameWords c d base n = true ↔
    ∀ k < n, base + k < 4096 → s.simWord c (base + k) = s.simWord d (base + k) := by
  simp only [State.sameWords, simStride, List.all_eq_true, List.mem_range, beq_iff_eq]
  exact forall_congr' fun k => ⟨fun h hk hend => h (by omega), fun h hk => h (by omega) (by omega)⟩

/-- The comparison of two grids, read as a proposition (46_aspx_synthesis.md R352). -/
theorem gridsAgree_iff {d : Fin 8} : s.gridsAgree c d = true ↔ s.gridsSame c d := by
  have hlt (n : Int) (k : Nat) : k < n.toNat ↔ (k : Int) < n := by omega
  simp only [State.gridsAgree, State.gridsSame, Bool.and_eq_true, beq_iff_eq, sameWords_iff, hlt, Int.lt_add_one_iff,
    and_assoc]
  have hcount (o : Nat) (ho : o < 4096) {p : Prop} : p ↔ o < 4096 → p := ⟨fun h _ => h, fun h => h ho⟩
  exact and_congr (hcount _ (by decide)) (and_congr (hcount _ (by decide)) Iff.rfl)

/-- BalanceSetup behind the check that slot `d` has its envelopes (46_aspx_synthesis.md R352). -/
def partnerChecks (s : State) (c d : Fin 8) (a : Int) : Except Stop (Option (Fin 8)) := do
  require (s.simWord d Sim.axBalance == 1 && s.simWord d Sim.axPartner == (c.val : Int)) .invalidAspxConfig
  require (s.gridsAgree c d) .invalidAspxConfig
  require (decide ((s.wAt d).sbgHi = (s.wAt c).sbgHi) && decide ((s.wAt d).sbgLo = (s.wAt c).sbgLo)
    && decide ((s.wAt d).sbgNoise = (s.wAt c).sbgNoise)) .invalidAspxConfig
  let a' ← s.qDiv d
  require (a' == a) .invalidAspxConfig
  pure (some d)

section
variable {d : Fin 8} {a : Int}

theorem partnerChecks_stopsOnlyWith : StopsOnlyWith .invalidAspxConfig (partnerChecks s c d a) :=
  stopsOnlyWith_bind (stopsOnlyWith_require _ _) fun _ _ => stopsOnlyWith_bind (stopsOnlyWith_require _ _) fun _ _ =>
    stopsOnlyWith_bind (stopsOnlyWith_require _ _) fun _ _ => stopsOnlyWith_bind qDiv_stopsOnlyWith fun _ _ =>
      stopsOnlyWith_bind (stopsOnlyWith_require _ _) fun _ _ => stopsOnlyWith_pure _ _

theorem partnerChecks_ok (ha : s.qDiv c = .ok a) {pair : Option (Fin 8)} :
    partnerChecks s c d a = .ok pair ↔ s.agreesAsPair c d ∧ pair = some d := by
  have hdivisor : (∃ a', s.qDiv d = .ok a' ∧ a' = a) ↔ s.simWord d Sim.axQmode = s.simWord c Sim.axQmode := by
    rw [← qDiv_eq_iff ha]
    exact ⟨fun ⟨a', h, he⟩ => he ▸ h, fun h => ⟨a, h, rfl⟩⟩
  simp only [partnerChecks, bind_ok, require_ok, exists_const, pure_ok, Bool.and_eq_true, beq_iff_eq, decide_eq_true_eq,
    gridsAgree_iff, ← and_assoc, exists_and_right]
  simp only [and_assoc, hdivisor, State.agreesAsPair]
  rfl

theorem balanceSetup_of_zero (h : s.simWord c Sim.axBalance = 0) : balanceSetup s c a = .ok none := by
  unfold balanceSetup
  rw [h]
  rfl

theorem balanceSetup_of_bad_word (h0 : s.simWord c Sim.axBalance ≠ 0) (h1 : s.simWord c Sim.axBalance ≠ 1) :
    balanceSetup s c a = raise .invalidAspxConfig := by
  unfold balanceSetup
  dsimp only
  rw [if_neg h0, beq_false_of_ne h1]
  rfl

section
variable (hcoded : s.simWord c Sim.axBalance = 1)
include hcoded

theorem balanceSetup_of_slot (hpartner : s.simWord c Sim.axPartner = d.val) : balanceSetup s c a =
    (require (decide (d ≠ c)) .invalidAspxConfig >>= fun _ => require (s.done d .axenv) .illegalCommand >>= fun _ =>
      partnerChecks s c d a) := by
  unfold balanceSetup
  dsimp only
  rw [hcoded, if_neg (by decide)]
  simp only [hpartner, Int.toNat_natCast]
  rw [dif_pos ⟨by omega, by omega⟩]
  rfl

theorem balanceSetup_of_bad_partner (h : s.simWord c Sim.axPartner < 0 ∨ 8 ≤ s.simWord c Sim.axPartner ∨
    s.simWord c Sim.axPartner = c.val) : balanceSetup s c a = raise .invalidAspxConfig := by
  by_cases hself : s.simWord c Sim.axPartner = c.val
  · rw [balanceSetup_of_slot hcoded hself, decide_eq_false (fun h => h rfl)]
    rfl
  · unfold balanceSetup
    dsimp only
    rw [hcoded, if_neg (by decide), dif_neg (by omega)]
    rfl

variable (hpartner : s.simWord c Sim.axPartner = d.val) (hne : d ≠ c)
include hpartner hne

theorem balanceSetup_of_partner_undone (hdone : s.done d .axenv = false) :
    balanceSetup s c a = raise .illegalCommand := by
  rw [balanceSetup_of_slot hcoded hpartner, decide_eq_true hne, hdone]
  rfl

theorem balanceSetup_of_partner (hdone : s.done d .axenv = true) :
    balanceSetup s c a = partnerChecks s c d a := by
  rw [balanceSetup_of_slot hcoded hpartner, decide_eq_true hne, hdone]
  rfl

variable (ha : s.qDiv c = .ok a)
include ha

theorem balanceSetup_of_disagreement (hdone : s.done d .axenv = true) (h : ¬s.agreesAsPair c d) :
    balanceSetup s c a = raise .invalidAspxConfig := by
  rw [balanceSetup_of_partner hcoded hpartner hne hdone]
  cases hchecks : partnerChecks s c d a with
  | error e => rw [partnerChecks_stopsOnlyWith e hchecks]; rfl
  | ok pair => exact absurd ((partnerChecks_ok ha).1 hchecks).1 h

theorem balanceSetup_of_agreement (hdone : s.done d .axenv = true) (h : s.agreesAsPair c d) :
    balanceSetup s c a = .ok (some d) := by
  rw [balanceSetup_of_partner hcoded hpartner hne hdone]
  exact (partnerChecks_ok ha).2 ⟨h, rfl⟩

end
end

/-! ### Tones -/

/-- The tones of a vector, subband by subband. -/
def tonesOf (tone : Nat → Bool) : Vector Bool 64 := Vector.ofFn fun m => tone m.val

/-- A tone lies in subband `m` (46_aspx_synthesis.md R353). -/
def hasTone (s : State) (c : Fin 8) (m : Nat) : Bool :=
  (List.range (groups (s.wAt c).sbgHi)).any fun k => s.simWord c (Sim.axSineFlag k) == 1 &&
    m == (entry (s.wAt c).sbgHi k + entry (s.wAt c).sbgHi (k + 1)) / 2

/-- A tone lies in group `i` of the table `t`. -/
def toneInGroup (tone : Nat → Bool) (t : List Nat) (i : Nat) : Bool :=
  (List.range 64).any fun k => tone k && decide (entry t i ≤ k) && decide (k < entry t (i + 1))

theorem sineInGroup_tonesOf (tone : Nat → Bool) (t : List Nat) (i : Nat) :
    sineInGroup (tonesOf tone) t i = toneInGroup tone t i := by
  have hget (m : Fin 64) : (tonesOf tone).get m = tone m.val := by
    rw [tonesOf, Vector.get_eq_getElem, Vector.getElem_ofFn]
  rw [Bool.eq_iff_iff]
  simp only [sineInGroup, toneInGroup, List.any_eq_true, List.mem_finRange, List.mem_range, true_and, hget,
    Fin.exists_iff]
  exact exists_congr fun k => ⟨fun ⟨hk, h⟩ => ⟨hk, h⟩, fun ⟨hk, h⟩ => ⟨hk, h⟩⟩

theorem placeTones_of_flags (h : ∀ k < groups (s.wAt c).sbgHi,
    s.simWord c (Sim.axSineFlag k) = 0 ∨ s.simWord c (Sim.axSineFlag k) = 1) :
    placeTones s c = .ok (tonesOf (hasTone s c)) := by
  refine bind_ok.2 ⟨(), require_ok.2 ?_, ?_⟩
  · simpa only [List.all_map, List.all_eq_true, List.mem_range, Function.comp_apply, isFlag_iff] using h
  · simp only [indexed_map_range, List.any_map]
    rfl

theorem placeTones_of_bad_flag (h : ∃ k < groups (s.wAt c).sbgHi,
    s.simWord c (Sim.axSineFlag k) ≠ 0 ∧ s.simWord c (Sim.axSineFlag k) ≠ 1) :
    placeTones s c = raise .invalidAspxConfig := by
  obtain ⟨k, hk, h0, h1⟩ := h
  have hbad :
      ((List.range (groups (s.wAt c).sbgHi)).map fun i => s.simWord c (Sim.axSineFlag i)).all isFlag = false := by
    rw [List.all_map, List.all_eq_false]
    exact ⟨k, List.mem_range.2 hk, fun hflag => (isFlag_iff.1 hflag).elim h0 h1⟩
  unfold placeTones
  dsimp only
  rw [hbad]
  rfl

/-! ### The values of a subband -/

theorem lt_of_at?_eq_some {α : Type} {n i : Nat} {t : Tab α n} {v : α} (h : t.at? i = some v) : i < n := by
  by_contra hge
  rw [Tab.at?, Vector.getElem?_eq_none (by omega)] at h
  cases h

/-- The signal table of envelope `l`. -/
def envTable (s : State) (c : Fin 8) (l : Nat) : List Nat :=
  if s.freqRes c l = 1 then (s.wAt c).sbgHi else (s.wAt c).sbgLo

theorem resolution_eq {l : Nat} (h : s.freqRes c l = 0 ∨ s.freqRes c l = 1) :
    s.resolution c l = .ok (s.freqRes c l == 1) := by
  rcases h with h | h <;> simp [State.resolution, h]

theorem sigTable_eq (l : Nat) : (s.wAt c).sigTable (s.freqRes c l == 1) = envTable s c l := by
  simp [ChannelState.sigTable, envTable]

/-- The first noise envelope that holds an envelope; a third one would have no values (45_aspx_tables.md R321). -/
theorem noiseEnvOf_eq {l q : Nat} (hcount : (q : Int) < s.simWord c Sim.axNumNoise) (hq : q < 2)
    (hholds : s.tnoise c q ≤ s.tenv c l ∧ s.tenv c l < s.tnoise c (q + 1))
    (hfirst : ∀ k < q, ¬(s.tnoise c k ≤ s.tenv c l ∧ s.tenv c l < s.tnoise c (k + 1))) :
    s.noiseEnvOf c l = some q :=
  find?_range_of_first (by simp only [simStride, Sim.axTnoise]; omega) (by simpa using hholds) fun k hk => by
    simpa using hfirst k hk

/-- The dequantized envelopes from the values `env` and `noise` of the slots (46_aspx_synthesis.md R351, R352). -/
def dequantAt (c : Fin 8) (pair : Option (Fin 8)) (a : Int) (env noise : Fin 8 → Int) : Real32 × Real32 :=
  pair.elim (dequantPlain a (env c) (noise c)) fun p =>
    dequantBalance (if c < p then 1 else -1) a (env (min c p)) (env (max c p)) (noise (min c p)) (noise (max c p))

theorem pairSign_eq {p : Fin 8} (hne : p ≠ c) : (if c < p then 1 else -1 : Int) = if min c p = c then 1 else -1 :=
  if_ctx_congr (min_eq_left_iff.trans hne.symm.le_iff_lt).symm (fun _ => rfl) fun _ => rfl

theorem dequantEnv_eq {pair : Option (Fin 8)} {a : Int} {env noise : Fin 8 → Int} {l i q j : Nat}
    (h : ∀ d ∈ c :: pair.toList, (s.chanAt d).qscf.at? (48 * l + i) = some (env d) ∧
      (s.chanAt d).qnoise.at? (5 * q + j) = some (noise d)) :
    dequantEnv s c pair a l i q j = .ok (dequantAt c pair a env noise) := by
  obtain ⟨henv, hnoise⟩ := h c List.mem_cons_self
  cases pair with
  | none => exact bind_ok.2 ⟨_, valueOf_ok.2 henv, bind_ok.2 ⟨_, valueOf_ok.2 hnoise, rfl⟩⟩
  | some p =>
    obtain ⟨henv', hnoise'⟩ := h p (by simp)
    rw [dequantAt, Option.elim_some]
    by_cases hlt : c < p
    · rw [min_eq_left hlt.le, max_eq_right hlt.le, if_pos hlt]
      simp only [dequantEnv, if_pos hlt]
      exact bind_ok.2 ⟨_, valueOf_ok.2 henv, bind_ok.2 ⟨_, valueOf_ok.2 henv', bind_ok.2 ⟨_, valueOf_ok.2 hnoise,
        bind_ok.2 ⟨_, valueOf_ok.2 hnoise', rfl⟩⟩⟩⟩
    · rw [min_eq_right (not_lt.1 hlt), max_eq_left (not_lt.1 hlt), if_neg hlt]
      simp only [dequantEnv, if_neg hlt]
      exact bind_ok.2 ⟨_, valueOf_ok.2 henv', bind_ok.2 ⟨_, valueOf_ok.2 henv, bind_ok.2 ⟨_, valueOf_ok.2 hnoise',
        bind_ok.2 ⟨_, valueOf_ok.2 hnoise, rfl⟩⟩⟩⟩

/-- The mean energy of the samples `hi` over the timeslots from `t0` to `t1` (46_aspx_synthesis.md R354). -/
def meanEnergy (t0 t1 : Int) (hi : Nat → Cplx) : Real32 :=
  R32.div (R32.sum ((List.range' t0.toNat (t1 - t0).toNat).map fun ts => Cx.norm2 (hi ts))) (R32.ofInt (t1 - t0))

theorem energyEstimate_eq {l m : Nat} {hi : Nat → Cplx}
    (hrange : s.tenv c (l + 1) ≤ s.tenv c l ∨ 0 ≤ s.tenv c l ∧ s.tenv c (l + 1) ≤ 32)
    (hhi : ∀ ts : Nat, s.tenv c l ≤ ts → (ts : Int) < s.tenv c (l + 1) →
      (s.chanAt c).qhigh.at? (64 * ts + m) = some (hi ts)) :
    energyEstimate s c l m = .ok (meanEnergy (s.tenv c l) (s.tenv c (l + 1)) hi) := by
  refine bind_ok.2 ⟨(), require_ok.2 (by simpa using hrange), bind_ok.2 ⟨_, mapE_of_forall fun ts hts => ?_, rfl⟩⟩
  have hts := List.mem_range'_1.1 hts
  exact bind_ok.2 ⟨_, valueOf_ok.2 (hhi ts (by omega) (by omega)), rfl⟩

theorem bandOfEnv_eq {pair : Option (Fin 8)} {a : Int} {tone : Nat → Bool} {l m i j q : Nat} {e : Real32 × Real32}
    {ec : Real32} (hm : m < 64) (hres : s.freqRes c l = 0 ∨ s.freqRes c l = 1)
    (hi : grp? (envTable s c l) m = some i) (hj : grp? (s.wAt c).sbgNoise m = some j)
    (hq : s.noiseEnvOf c l = some q) (he : dequantEnv s c pair a l i q j = .ok e)
    (hec : energyEstimate s c l m = .ok ec) :
    bandOfEnv s c pair a (tonesOf tone) l m = .ok ⟨m, e.1, e.2, ec, tone m, toneInGroup tone (envTable s c l) i⟩ := by
  refine bind_ok.2 ⟨_, resolution_eq hres, ?_⟩
  dsimp only
  rw [sigTable_eq]
  refine bind_ok.2 ⟨i, valueOf_ok.2 hi, bind_ok.2 ⟨j, valueOf_ok.2 hj, bind_ok.2 ⟨q, valueOf_ok.2 hq,
    bind_ok.2 ⟨e, he, bind_ok.2 ⟨ec, hec, ?_⟩⟩⟩⟩⟩
  rw [sineInGroup_tonesOf, tonesOf, atD_ofFn, dif_pos hm]
  rfl

/-! ### The limiter -/

section
variable {band : Nat → Band} {ms : List Nat}

theorem maxGain_map : maxGain (ms.map band) =
    let sC := R32.sum (ms.map fun m => (band m).ec)
    let sO := R32.sum (ms.map fun m => (band m).eo)
    R32.min (R32.mul Tables.limGain (R32.sqrt (if R32.eq sC 0 then R32.ofInt 1 else R32.div sO sC)))
      Tables.gainCap := by
  simp only [maxGain, targetEnergy, List.map_map]
  rfl

theorem boost_map : boost (ms.map band) =
    let den := R32.sum (ms.map fun m => limitedEnergy (maxGain (ms.map band)) (band m))
    let sO := R32.sum (ms.map fun m => (band m).eo)
    R32.min (if R32.eq den 0 then R32.ofInt 1 else R32.sqrt (R32.div sO den)) Tables.boostMax := by
  simp only [boost, targetEnergy, List.map_map]
  rfl

theorem limited_eq (gmax : Real32) (x : Band) : limited gmax x =
    (if R32.lt gmax x.gain then gmax else x.gain,
      if R32.lt gmax x.gain then R32.mul x.qm (R32.div gmax x.gain) else x.qm) := by
  rw [limited]
  split <;> rfl

/-- The subbands of limiter group `u`. -/
def limiterGroup (lim : List Nat) (bands : List Band) (u : Nat) : List Band :=
  bands.filter fun x => decide (entry lim u ≤ x.m) && decide (x.m < entry lim (u + 1))

theorem limiterGroup_map (hband : ∀ m, (band m).m = m) (lim : List Nat) (u : Nat) :
    limiterGroup lim (ms.map band) u =
      (ms.filter fun m => decide (entry lim u ≤ m) && decide (m < entry lim (u + 1))).map band := by
  simp only [limiterGroup, List.filter_map, Function.comp_def, hband]

end

/-- The levels of a subband in the limiter group `g` (46_aspx_synthesis.md R356 to R358). -/
def levelsIn (g : List Band) (x : Band) : Real32 × Real32 × Real32 :=
  finalLevels x (limited (maxGain g) x).1 (limited (maxGain g) x).2 (boost g)

/-- The levels of a subband of envelope `l`: free ones in no limiter group (log 9). -/
def levelsOf (s : State) (c : Fin 8) (l : Nat) (lim : List Nat) (bands : List Band) (x : Band) :
    Real32 × Real32 × Real32 :=
  let free := s.freeLevel c l bands x.m
  (grp? lim x.m).elim (finalLevels x (free 0) (free 1) (free 2)) fun u => levelsIn (limiterGroup lim bands u) x

theorem envelopeLevels_eq (l : Nat) (lim : List Nat) (bands : List Band) :
    envelopeLevels s c l lim bands = bands.map fun x => (x.m, levelsOf s c l lim bands x) := by
  refine List.map_congr_left fun x _ => ?_
  rw [levelsOf]
  cases grp? lim x.m with
  | none => rfl
  | some u => rfl

/-- The levels of subband `m` of envelope `l`, whose subbands are `band l`. -/
def levelAt (s : State) (c : Fin 8) (band : Nat → Nat → Band) (l m : Nat) : Real32 × Real32 × Real32 :=
  levelsOf s c l (s.wAt c).sbgLim ((highBand (s.wAt c)).map (band l)) (band l m)

section
variable {band : Nat → Nat → Band} (hband : ∀ l m, (band l m).m = m)
include hband

theorem levelAt_of_group {l m u : Nat} (hu : grp? (s.wAt c).sbgLim m = some u) :
    let lim := (s.wAt c).sbgLim
    let members := (highBand (s.wAt c)).filter fun m => decide (entry lim u ≤ m) && decide (m < entry lim (u + 1))
    levelAt s c band l m = levelsIn (members.map (band l)) (band l m) := by
  rw [levelAt, levelsOf, hband, hu, Option.elim_some, limiterGroup_map (hband l)]

theorem gainEnvelope_eq {pair : Option (Fin 8)} {a : Int} {tones : Vector Bool 64} {l : Nat}
    (h : ∀ m ∈ highBand (s.wAt c), bandOfEnv s c pair a tones l m = .ok (band l m)) :
    gainEnvelope s c pair a tones l = .ok ((highBand (s.wAt c)).map fun m => (m, levelAt s c band l m)) := by
  refine bind_ok.2 ⟨_, mapE_of_forall h, ?_⟩
  rw [envelopeLevels_eq, List.map_map]
  refine congrArg Except.ok (List.map_congr_left fun m _ => ?_)
  rw [Function.comp_apply, hband]
  rfl

end

/-! ### Where the levels are stored -/

section
variable {f : Real32 × Real32 × Real32 → Real32} {level : Nat → Nat → Real32 × Real32 × Real32} {ms : List Nat}

/-- The levels of subbands `ms` in the first `n` envelopes. -/
def levelRows (level : Nat → Nat → Real32 × Real32 × Real32) (ms : List Nat) (n : Nat) :
    List (List (Nat × Real32 × Real32 × Real32)) :=
  (List.range n).map fun l => ms.map fun m => (m, level l m)

theorem levelEntries_range' (b n : Nat) :
    levelEntries f b ((List.range' b n).map fun l => ms.map fun m => (m, level l m)) =
      (List.range' b n).flatMap fun l => ms.map fun m => (64 * l + m, f (level l m)) := by
  induction n generalizing b with
  | zero => rfl
  | succ n ih =>
    rw [List.range'_succ, List.map_cons, levelEntries, ih, List.flatMap_cons, List.map_map]
    rfl

theorem mem_levelEntries {n k : Nat} {v : Real32} : (k, v) ∈ levelEntries f 0 (levelRows level ms n) ↔
    ∃ l < n, ∃ m ∈ ms, k = 64 * l + m ∧ v = f (level l m) := by
  rw [levelRows, List.range_eq_range', levelEntries_range']
  simp only [← List.range_eq_range', List.mem_flatMap, List.mem_range, List.mem_map, Prod.mk.injEq, eq_comm]

variable {y : ChannelState} {n : Nat} {t : Tab Real32 320}

theorem at?_put_levels (hn : n ≤ 5) (htop : y.sbTop ≤ 64) {l m : Nat} (hl : l < n) (hlo : y.sbx ≤ m)
    (hhi : m < y.sbTop) : (t.put (levelEntries f 0 (levelRows level (highBand y) n))).at? (64 * l + m) =
      some (f (level l m)) := by
  refine at?_put_of_mem (by omega) (mem_levelEntries.2 ⟨l, hl, m, mem_highBand.2 ⟨hlo, hhi⟩, rfl, rfl⟩) fun w hw => ?_
  obtain ⟨l', -, m', hm', hindex, rfl⟩ := mem_levelEntries.1 hw
  obtain ⟨-, hhi'⟩ := mem_highBand.1 hm'
  obtain ⟨rfl, rfl⟩ : l = l' ∧ m = m' := by omega
  rfl

theorem sameBut_put_levels : t.sameBut (fun k => ∃ l < n, ∃ m, y.sbx ≤ m ∧ m < y.sbTop ∧ k = 64 * l + m)
    (t.put (levelEntries f 0 (levelRows level (highBand y) n))) := by
  intro k hk
  refine at?_put_of_not_mem fun v hv => hk ?_
  obtain ⟨l, hl, m, hm, rfl, -⟩ := mem_levelEntries.1 hv
  obtain ⟨hlo, hhi⟩ := mem_highBand.1 hm
  exact ⟨l, hl, m, hlo, hhi, rfl⟩

end

/-! ### ASPXGAIN -/

theorem exec_aspxgain (c : BitVec 4) (s : State) : exec (.aspxgain c) s = s.command [c] (aspxgainBody (slotOf c)) := rfl

/-- F[c] after ASPXGAIN, less the stage. -/
def gainFrame (f : ChanFrame) (tones : Vector Bool 64) (levels : List (List (Nat × Real32 × Real32 × Real32))) :
    ChanFrame :=
  { f with
    toneAt := some tones
    gainS := f.gainS.put (levelEntries (·.1) 0 levels)
    lvlN := f.lvlN.put (levelEntries (·.2.1) 0 levels)
    lvlT := f.lvlT.put (levelEntries (·.2.2) 0 levels) }

section
variable (hs : s.running) (haxhf : s.done c .axhf = true) (haxgain : s.done c .axgain = false)
include hs haxhf haxgain

/-- Behind the stage checks ASPXGAIN reads the mode, the pair and the tones, and runs over the envelopes. -/
theorem aspxgainBody_of_ready : aspxgainBody c s =
    (s.qDiv c >>= fun a => balanceSetup s c a >>= fun pair => placeTones s c >>= fun tones =>
      (mapE (gainEnvelope s c pair a tones) (List.range (min (s.simWord c Sim.axNumEnv).toNat 6))).map fun levels =>
        chanWritten s c s.bitpos (gainFrame (s.chanAt c) tones levels) .axgain) := by
  rw [aspxgainBody, (requireOpen_ok (u := ())).2 hs.1, haxhf, haxgain]
  rfl

theorem aspxgainBody_of_bad_mode (hmode : s.qDiv c = raise .invalidAspxConfig) :
    aspxgainBody c s = raise .invalidAspxConfig := by
  rw [aspxgainBody_of_ready hs haxhf haxgain, hmode]
  rfl

variable {a : Int} (ha : s.qDiv c = .ok a)
include ha

theorem aspxgainBody_of_bad_balance {e : FatalError} (h : balanceSetup s c a = raise e) :
    aspxgainBody c s = raise e := by
  rw [aspxgainBody_of_ready hs haxhf haxgain, ha]
  show (balanceSetup s c a >>= _) = _
  rw [h]
  rfl

variable {pair : Option (Fin 8)} (hpair : balanceSetup s c a = .ok pair)
include hpair

theorem aspxgainBody_of_bad_tones (h : placeTones s c = raise .invalidAspxConfig) :
    aspxgainBody c s = raise .invalidAspxConfig := by
  rw [aspxgainBody_of_ready hs haxhf haxgain, ha, h]
  show (balanceSetup s c a >>= _) = _
  rw [hpair]
  rfl

theorem aspxgainBody_eq {tones : Vector Bool 64} {nEnv : Nat} {band : Nat → Nat → Band}
    (hband : ∀ l m, (band l m).m = m) (htones : placeTones s c = .ok tones) (hnEnv : s.simWord c Sim.axNumEnv = nEnv)
    (hle : nEnv ≤ 5) (h : ∀ l < nEnv, ∀ m ∈ highBand (s.wAt c), bandOfEnv s c pair a tones l m = .ok (band l m)) :
    aspxgainBody c s = .ok (chanWritten s c s.bitpos
      (gainFrame (s.chanAt c) tones (levelRows (levelAt s c band) (highBand (s.wAt c)) nEnv)) .axgain) := by
  have hlevels : mapE (gainEnvelope s c pair a tones) (List.range nEnv) =
      .ok (levelRows (levelAt s c band) (highBand (s.wAt c)) nEnv) :=
    mapE_of_forall fun l hl => gainEnvelope_eq hband (h l (List.mem_range.1 hl))
  have hcount : min (s.simWord c Sim.axNumEnv).toNat 6 = nEnv := by omega
  rw [aspxgainBody_of_ready hs haxhf haxgain, hcount]
  refine bind_ok.2 ⟨a, ha, bind_ok.2 ⟨pair, hpair, bind_ok.2 ⟨tones, htones, ?_⟩⟩⟩
  rw [hlevels]
  rfl

end

/-- Settles O59: each check of the mode, the pair and the flags stops the command; behind them every subband has its
values, and the levels of `levelAt` in a limiter group are those of the group's sums. -/
theorem aspxgainLimitsAndBoosts : Obligations.AspxgainLimitsAndBoosts := by
  intro s c nEnv a pair i j q env noise hi hs hc x y f mode r table tenv tnoise flag coded partner one tone six lvl bal
    sgn eo qo ec sig qm sm g members sO sC gmax glim qlim den gb written haxhf haxgain
  rw [exec_aspxgain]
  refine ⟨fun h0 h1 => command_of_body_raise (e := .invalidAspxConfig) hs hc
    (aspxgainBody_of_bad_mode hs haxhf haxgain (qDiv_of_bad_mode h0 h1)), fun hmode => ?_⟩
  have ha : s.qDiv x = .ok a := qDiv_of_mode hmode
  have hraise {e : FatalError} (h : balanceSetup s x a = raise e) :=
    command_of_body_raise hs hc (aspxgainBody_of_bad_balance hs haxhf haxgain ha h)
  refine ⟨fun h0 h1 => hraise (balanceSetup_of_bad_word h0 h1),
    fun hcoded hbad => hraise (balanceSetup_of_bad_partner hcoded hbad),
    fun d hcoded hpartner hne => ⟨fun hdone => hraise (balanceSetup_of_partner_undone hcoded hpartner hne hdone),
      fun hdone hno => hraise (balanceSetup_of_disagreement hcoded hpartner hne ha hdone hno)⟩, fun hpair => ?_⟩
  obtain ⟨hsetup, hother⟩ : balanceSetup s x a = .ok pair ∧ ∀ p ∈ pair, p ≠ x := by
    obtain ⟨hcoded, rfl⟩ | ⟨d, hcoded, hpartner, hne, hdone, hagrees, rfl⟩ := hpair
    · exact ⟨balanceSetup_of_zero hcoded, nofun⟩
    · exact ⟨balanceSetup_of_agreement hcoded hpartner hne ha hdone hagrees, fun p hp => Option.some.inj hp ▸ hne⟩
  refine ⟨fun hbad => command_of_body_raise (e := .invalidAspxConfig) hs hc
    (aspxgainBody_of_bad_tones hs haxhf haxgain ha hsetup (placeTones_of_bad_flag hbad)),
    fun hflags hnEnv hle htop hvals => ?_⟩
  have hdequant (l m : Nat) :
      dequantAt x pair a (fun d => env d l (i l m)) (fun d => noise d (q l) (j m)) = (eo l m, qo l m) := by
    obtain rfl | ⟨p, rfl⟩ := pair.eq_none_or_eq_some
    · simp only [eo, qo, if_pos]
      rfl
    · simp only [eo, qo, if_neg (Option.some_ne_none p), dequantAt, Option.elim_some, pairSign_eq (hother p rfl)]
      rfl
  let band (l m : Nat) : Band := ⟨m, eo l m, qo l m, ec l m, tone m, sig l m⟩
  have hbands : ∀ l < nEnv, ∀ m ∈ highBand y,
      bandOfEnv s x pair a (tonesOf (hasTone s x)) l m = .ok (band l m) := fun l hl m hm => by
    obtain ⟨hlo, hhi⟩ := mem_highBand.1 hm
    obtain ⟨hres, hrange, hcount, hfrom, hto, hfirst, hbandVals⟩ := hvals l hl
    obtain ⟨hgroup, hfloor, hvalues, hhigh⟩ := hbandVals m hlo hhi
    have hq : q l < 2 := by
      have := lt_of_at?_eq_some (hvalues x List.mem_cons_self).2
      omega
    exact bandOfEnv_eq (by omega) hres hgroup hfloor (noiseEnvOf_eq hcount hq ⟨hfrom, hto⟩ hfirst)
      ((dequantEnv_eq hvalues).trans (congrArg Except.ok (hdequant l m))) (energyEstimate_eq hrange hhigh)
  have hmax (l u : Nat) : maxGain ((members u).map (band l)) = gmax l u := maxGain_map
  have hlimited (l u m : Nat) : limited (gmax l u) (band l m) = (glim l u m, qlim l u m) := limited_eq _ _
  have hboost (l u : Nat) : boost ((members u).map (band l)) = gb l u := by
    rw [boost_map, hmax]
    simp only [limitedEnergy, hlimited]
    rfl
  have hlevel (l u m : Nat) (hu : grp? y.sbgLim m = some u) : levelAt s x band l m =
      (R32.mul (glim l u m) (gb l u), if tone m then 0 else R32.mul (qlim l u m) (gb l u),
        R32.mul (sm l m) (gb l u)) := by
    rw [levelAt_of_group (fun _ _ => rfl) hu]
    show levelsIn ((members u).map (band l)) (band l m) = _
    rw [levelsIn, hboost, hmax, hlimited]
    rfl
  have hbody := aspxgainBody_eq hs haxhf haxgain ha hsetup (band := band) (fun _ _ => rfl) (placeTones_of_flags hflags)
    hnEnv hle hbands
  refine ⟨_, command_of_body_ok hs hc hbody, chanWritten_endsOn, ⟨rfl, rfl, rfl⟩, rfl, rfl, ?_,
    chanWritten_doneAdds rfl, ?_⟩ <;> rw [chanWritten_chanAt]
  · rfl
  refine ⟨rfl, fun l hl m hlo hhi => ?_, sameBut_put_levels, sameBut_put_levels, sameBut_put_levels⟩
  have hstored (t : Tab Real32 320) (part : Real32 × Real32 × Real32 → Real32) :=
    at?_put_levels (t := t) (f := part) (level := levelAt s x band) hle htop hl hlo hhi
  refine ⟨fun u hu => ?_, ?_⟩
  · have hlevel := hlevel l u m hu
    exact ⟨(hstored f.gainS (·.1)).trans (by rw [hlevel]), (hstored f.lvlN (·.2.1)).trans (by rw [hlevel]),
      (hstored f.lvlT (·.2.2)).trans (by rw [hlevel])⟩
  · exact ⟨Option.isSome_of_eq_some (hstored _ _), Option.isSome_of_eq_some (hstored _ _),
      Option.isSome_of_eq_some (hstored _ _)⟩

end Sys2Proof.Proofs

/-! Every command as one outcome that is then finished (60_exceptions.md R381, R385): its slot check, the discard of a
failed frame, its pseudocode. What holds of the end of a command is proved of `State.finish` alone. -/

namespace Sys2Proof.Proofs

open Sys2Proof Sys2Proof.Machine Sys2Proof.Laws

variable {s t u : State} {i : Instr}

/-- The pseudocode of each command. -/
def pseudocode : Instr → State → Except Stop State
  | .nop => .ok
  | .chreset c => chresetBody (slotOf c)
  | .fbegin f m d indep seqp => fbeginBody f m d indep seqp
  | .fcommit => fcommitBody
  | .fabort => fabortBody
  | .setlayout c => setlayoutBody (slotOf c)
  | .rdbits n => readCommand (decide (n.toNat ≤ 32)) fun s => readBits s n.toNat
  | .rdunary stop maxLen => readCommand true fun s => readUnary s stop maxLen.toNat
  | .rdvlc table => readCommand true fun s => readVlc s table.toNat
  | .rdesc base => readCommand (decide (1 ≤ base.toNat) && decide (base.toNat ≤ 16))
      fun s => readEsc s base.toNat s.arg0.toNat
  | .sect c g n => sectBody (slotOf c) (groupOf g) n.toNat
  | .spec c g => specBody (slotOf c) (groupOf g)
  | .sf c g snfp => sfBody (slotOf c) (groupOf g) snfp
  | .arith c g => arithBody (slotOf c) (groupOf g)
  | .deq c g => deqBody (slotOf c) (groupOf g)
  | .stereo c c2 => stereoBody (slotOf c) (slotOf c2)
  | .imdct c => imdctBody (slotOf c)
  | .qmfa c => qmfaBody (slotOf c)
  | .qmfs c => qmfsBody (slotOf c)
  | .aspxcfg c => aspxcfgBody (slotOf c)
  | .aspxenv c => aspxenvBody (slotOf c)
  | .aspxhf c => aspxhfBody (slotOf c)
  | .aspxgain c => aspxgainBody (slotOf c)
  | .aspxasm c => aspxasmBody (slotOf c)

/-- The commands a failed frame discards (60_exceptions.md R383). -/
def discardable : Instr → Bool
  | .nop | .fbegin _ _ _ _ _ | .fcommit | .fabort => false
  | _ => true

/-- What a command answers before it ends, in the order of 60_exceptions.md R385: the slot check, the discard, the
pseudocode. -/
def outcome (i : Instr) (s : State) : Except Stop State :=
  if i.slots.all slotOk then if s.failedFrame && discardable i then .ok s else pseudocode i s
  else raise .illegalCommand

theorem command_eq_finish_checked {slots : List (BitVec 4)} {body : State → Except Stop State} :
    s.command slots body =
      s.finish (if slots.all slotOk then if s.failedFrame && true then .ok s else body s else raise .illegalCommand) := by
  rw [State.command, Bool.and_true]
  split_ifs <;> rfl

theorem finish_undiscarded {r : Except Stop State} :
    s.finish r = s.finish (if [].all slotOk then if s.failedFrame && false then .ok s else r else raise .illegalCommand) := by
  rw [Bool.and_false]
  rfl

/-- Every command ends as its outcome is finished. -/
theorem exec_eq_finish_outcome (i : Instr) (s : State) : exec i s = s.finish (outcome i s) := by
  cases i with
  | nop => exact finish_undiscarded (r := .ok s)
  | fbegin | fcommit | fabort => exact finish_undiscarded
  | rdbits | rdunary | rdvlc | rdesc => exact command_eq_finish_checked (slots := [])
  | _ => exact command_eq_finish_checked

/-- A command answers a state because it is discarded or because its pseudocode does. -/
theorem outcome_ok (h : outcome i s = .ok u) :
    (s.failedFrame = true ∧ discardable i = true ∧ u = s) ∨ pseudocode i s = .ok u := by
  unfold outcome at h
  split_ifs at h with hslots hdiscard
  · rw [Bool.and_eq_true] at hdiscard
    exact .inl ⟨hdiscard.1, hdiscard.2, (Except.ok.inj h).symm⟩
  · exact .inr h
  · cases h

/-- The two ways a command ends in a next state. -/
theorem exec_next : exec i s = .next t ↔
    (∃ u, outcome i s = .ok u ∧ t = u.complete) ∨ ∃ e, outcome i s = .error (.fatal e) ∧ t = s.takeFatal e := by
  rw [exec_eq_finish_outcome, finish_next]

end Sys2Proof.Proofs

/-! STATUS, FCFG and SEQ stay legal (60_exceptions.md R380 to R384). What each pseudocode makes of the flags, what each
change of STATUS makes of its codes, and the one case analysis of a step that puts them together. -/

namespace Sys2Proof.Proofs

open Sys2Proof Sys2Proof.Machine Sys2Proof.Laws Sys2Proof.Config

variable {s t u : State} {i : Instr}

/-! ### What the pseudocode makes of STATUS, FCFG and SEQ -/

/-- STATUS, FCFG and SEQ are as before. -/
def flagsKept (s t : State) : Prop := t.status = s.status ∧ t.fcfg = s.fcfg ∧ t.seq = s.seq

theorem flagsKept_refl (s : State) : flagsKept s s := ⟨rfl, rfl, rfl⟩

theorem chresetBody_keeps_flags {c : Fin 8} (h : chresetBody c s = .ok u) : flagsKept s u := by
  obtain ⟨-, rfl⟩ | ⟨-, rfl⟩ := chresetBody_ok h <;> exact ⟨rfl, rfl, rfl⟩

theorem setlayoutBody_keeps_flags {c : Fin 8} (h : setlayoutBody c s = .ok u) : flagsKept s u := by
  obtain ⟨-, -, -, gs, -, rfl⟩ := setlayoutBody_ok.1 h
  exact ⟨rfl, rfl, rfl⟩

theorem sectBody_keeps_flags {c : Fin 8} {g : Fin 16} {n : Nat} (h : sectBody c g n s = .ok u) : flagsKept s u := by
  obtain ⟨-, -, -, -, cbs, pos, -, rfl⟩ := sectBody_ok.1 h
  exact ⟨rfl, rfl, rfl⟩

theorem specBody_keeps_flags {c : Fin 8} {g : Fin 16} (h : specBody c g s = .ok u) : flagsKept s u := by
  obtain ⟨-, -, -, vals, pos, q, mags, -, rfl⟩ := specBody_ok h
  exact ⟨rfl, rfl, rfl⟩

theorem sfBody_keeps_flags {c : Fin 8} {g : Fin 16} {snfp : Bool} (h : sfBody c g snfp s = .ok u) : flagsKept s u := by
  obtain ⟨-, -, -, start, r, pos, -, -, rfl⟩ := sfBody_ok h
  exact ⟨rfl, rfl, rfl⟩

theorem deqBody_keeps_flags {c : Fin 8} {g : Fin 16} (h : deqBody c g s = .ok u) : flagsKept s u := by
  obtain ⟨-, -, -, coefs, -, rfl⟩ := deqBody_ok.1 h
  exact ⟨rfl, rfl, rfl⟩

theorem stereoBody_keeps_flags {c c2 : Fin 8} (h : stereoBody c c2 s = .ok u) : flagsKept s u := by
  obtain ⟨-, -, -, -, -, -, -, new, -, rfl⟩ := stereoBody_ok h
  simp [flagsKept]

theorem imdctBody_keeps_flags {c : Fin 8} (h : imdctBody c s = .ok u) : flagsKept s u := by
  obtain ⟨-, -, -, -, x, td, -, rfl⟩ := imdctBody_ok.1 h
  exact ⟨rfl, rfl, rfl⟩

theorem qmfaBody_keeps_flags {c : Fin 8} (h : qmfaBody c s = .ok u) : flagsKept s u := by
  obtain ⟨-, -, -, numTs, input, -, -, rfl⟩ := qmfaBody_ok.1 h
  exact ⟨rfl, rfl, rfl⟩

theorem qmfsBody_keeps_flags {c : Fin 8} (h : qmfsBody c s = .ok u) : flagsKept s u := by
  obtain ⟨-, -, -, -, numTs, -, rfl⟩ := qmfsBody_ok.1 h
  exact ⟨rfl, rfl, rfl⟩

theorem aspxcfgBody_keeps_flags {c : Fin 8} (h : aspxcfgBody c s = .ok u) : flagsKept s u := by
  obtain ⟨-, -, -, x, -, rfl⟩ := aspxcfgBody_ok.1 h
  exact ⟨rfl, rfl, rfl⟩

theorem aspxenvBody_keeps_flags {c : Fin 8} (h : aspxenvBody c s = .ok u) : flagsKept s u := by
  obtain ⟨-, -, -, a, sig, noise, x, f, -, -, -, -, -, -, -, -, rfl⟩ := aspxenvBody_ok h
  exact ⟨rfl, rfl, rfl⟩

theorem aspxhfBody_keeps_flags {c : Fin 8} (h : aspxhfBody c s = .ok u) : flagsKept s u := by
  obtain ⟨-, -, -, modes, numTs, qlow, alphas, x, f, -, -, -, -, -, -, rfl⟩ := aspxhfBody_ok h
  exact ⟨rfl, rfl, rfl⟩

theorem aspxgainBody_keeps_flags {c : Fin 8} (h : aspxgainBody c s = .ok u) : flagsKept s u := by
  obtain ⟨-, -, -, a, pair, tones, levels, f, -, -, -, -, -, rfl⟩ := aspxgainBody_ok h
  exact ⟨rfl, rfl, rfl⟩

theorem aspxasmBody_keeps_flags {c : Fin 8} (h : aspxasmBody c s = .ok u) : flagsKept s u := by
  obtain ⟨-, -, -, numTs, x, qg, -, -, rfl⟩ := aspxasmBody_ok.1 h
  exact ⟨rfl, rfl, rfl⟩

theorem readCommand_keeps_flags {ok : Bool} {m : State → BitM Nat} (h : readCommand ok m s = .ok u) : flagsKept s u := by
  obtain ⟨-, -, v, pos, -, rfl⟩ := readCommand_ok.1 h
  exact ⟨rfl, rfl, rfl⟩

/-- The commands whose pseudocode writes STATUS. -/
def writesFlags : Instr → Bool
  | .fbegin _ _ _ _ _ | .fcommit | .fabort | .arith _ _ => true
  | _ => false

/-- Of all commands only FBEGIN, FCOMMIT, FABORT and ARITH write STATUS but for their end, and only these can write FCFG
and SEQ. -/
theorem pseudocode_keeps_flags (hi : writesFlags i = false) (h : pseudocode i s = .ok u) : flagsKept s u := by
  unfold pseudocode at h
  cases i with
  | fbegin | fcommit | fabort | arith => cases hi
  | nop => exact Except.ok.inj h ▸ flagsKept_refl s
  | rdbits | rdunary | rdvlc | rdesc => exact readCommand_keeps_flags h
  | chreset => exact chresetBody_keeps_flags h
  | setlayout => exact setlayoutBody_keeps_flags h
  | sect => exact sectBody_keeps_flags h
  | spec => exact specBody_keeps_flags h
  | sf => exact sfBody_keeps_flags h
  | deq => exact deqBody_keeps_flags h
  | stereo => exact stereoBody_keeps_flags h
  | imdct => exact imdctBody_keeps_flags h
  | qmfa => exact qmfaBody_keeps_flags h
  | qmfs => exact qmfsBody_keeps_flags h
  | aspxcfg => exact aspxcfgBody_keeps_flags h
  | aspxenv => exact aspxenvBody_keeps_flags h
  | aspxhf => exact aspxhfBody_keeps_flags h
  | aspxgain => exact aspxgainBody_keeps_flags h
  | aspxasm => exact aspxasmBody_keeps_flags h

/-! ### Legal codes in STATUS -/

/-- `State.statusLegal` flag by flag (60_exceptions.md R380 to R384). -/
def codesLegal (x : Status) : Prop :=
  (x.err = true → 1 ≤ x.errcode.toNat ∧ x.errcode.toNat ≤ 6) ∧ (x.err = false → x.errcode = 0) ∧
    (x.warn = true → x.warncode = 16 ∨ x.warncode = 17) ∧ (x.warn = false → x.warncode = 0) ∧
    (x.ffail = true → x.fopen = true)

theorem statusLegal_iff : s.statusLegal = true ↔ codesLegal s.status := by
  unfold State.statusLegal codesLegal
  cases s.status.err <;> cases s.status.warn <;> cases s.status.ffail <;> simp [and_assoc]

theorem fatalError_code_range (e : FatalError) : 1 ≤ e.code.toNat ∧ e.code.toNat ≤ 6 := by cases e <;> decide

theorem warning_code_cases (x : Warning) : x.code = 16 ∨ x.code = 17 := by cases x <;> decide

section
variable {x : Status}

theorem codesLegal_fatal (h : codesLegal x) (e : FatalError) : codesLegal (x.fatal e) := by
  obtain ⟨herr, -, hwarn, hnowarn, hfail⟩ := h
  refine ⟨fun _ => ?_, nofun, hwarn, hnowarn, fun hf => ?_⟩
  · rw [status_fatal_errcode]
    split_ifs with hx
    · exact herr hx
    · exact fatalError_code_range e
  · exact (Bool.or_eq_true_iff.1 hf).elim hfail id

theorem codesLegal_raiseWarning (h : codesLegal x) (w : Warning) : codesLegal (x.raiseWarning w) := by
  obtain ⟨herr, hnoerr, hwarn, -, hfail⟩ := h
  refine ⟨herr, hnoerr, fun _ => ?_, nofun, hfail⟩
  rw [status_raiseWarning_warncode]
  split_ifs with hx
  · exact hwarn hx
  · exact warning_code_cases w

/-- A W1C write clears a code with its flag (10_state.md R43). -/
theorem codesLegal_w1c (h : codesLegal x) (v : Word) : codesLegal (x.w1c v) := by
  obtain ⟨herr, hnoerr, hwarn, hnowarn, hfail⟩ := h
  refine ⟨?_, ?_, ?_, ?_, hfail⟩ <;> simp only [status_w1c_err, status_w1c_errcode, status_w1c_warn, status_w1c_warncode]
  · cases v.getLsbD 4
    · simpa using herr
    · simp
  · cases v.getLsbD 4
    · simpa using hnoerr
    · simp
  · cases v.getLsbD 5
    · simpa using hwarn
    · simp
  · cases v.getLsbD 5
    · simpa using hnowarn
    · simp

/-- The begin or the end of a frame: no frame that is not open has failed. -/
theorem codesLegal_frame (h : codesLegal x) (o p : Bool) :
    codesLegal { x with fopen := o, ffail := false, pcmv := p } := by
  obtain ⟨herr, hnoerr, hwarn, hnowarn, -⟩ := h
  exact ⟨herr, hnoerr, hwarn, hnowarn, nofun⟩

end

/-! ### Legal FCFG and SEQ -/

/-- FCFG is legal (10_state.md R49). -/
def fcfgLegal (v : Word) : Prop := v.toNat < 2 ^ 11 ∧ (v.extractLsb' 0 4).toNat ≤ 8

/-- SEQ is legal (10_state.md R50). -/
def seqLegal (v : Word) : Prop := v &&& 0x7FFFFC00#32 = 0 ∧ (v.getLsbD 31 = true ∨ v = 0)

theorem registersLegal_iff : s.registersLegal = true ↔ fcfgLegal s.fcfg ∧ seqLegal s.seq := by
  simp [State.registersLegal, fcfgLegal, seqLegal, and_assoc]

theorem fcfgLegal_zero : fcfgLegal 0 := by
  unfold fcfgLegal
  decide

theorem seqLegal_zero : seqLegal 0 := by
  unfold seqLegal
  decide

theorem fcfgLegal_fbegin {f m : BitVec 4} {d : BitVec 2} {indep : Bool} (hf : f.toNat ≤ 8) :
    fcfgLegal (0#21 ++ BitVec.ofBool indep ++ d ++ m ++ f) := by
  have hindep : indep.toNat ≤ 1 := Bool.toNat_le indep
  have hm := m.isLt
  have hd := d.isLt
  refine ⟨by rw [fcfg_toNat]; omega, ?_⟩
  rw [BitVec.extractLsb'_toNat, fcfg_toNat, Nat.shiftRight_zero]
  omega

theorem seqLegal_seqWord (n : Nat) : seqLegal (seqWord n) := by
  refine ⟨?_, .inl ?_⟩
  · have hmask : (0x7FFFFC00#32 : Word) = 0#1 ++ BitVec.allOnes 21 ++ 0#seqBits := by decide
    rw [hmask, seqWord, BitVec.and_append, BitVec.and_append]
    simp [seqBits]
  · rw [seqWord, BitVec.getLsbD_append, BitVec.getLsbD_append]
    simp [seqBits]

/-! ### Commands -/

/-- STATUS, FCFG and SEQ are legal. -/
def flagsLegal (s : State) : Prop := codesLegal s.status ∧ fcfgLegal s.fcfg ∧ seqLegal s.seq

theorem flagsLegal_iff : flagsLegal s ↔ s.statusLegal = true ∧ s.registersLegal = true := by
  rw [statusLegal_iff, registersLegal_iff, flagsLegal]

theorem flagsLegal_of_kept (hs : flagsLegal s) (h : flagsKept s t) : flagsLegal t := by
  obtain ⟨hstatus, hfcfg, hseq⟩ := h
  rwa [flagsLegal, hstatus, hfcfg, hseq]

theorem flagsLegal_complete (hs : flagsLegal s) : flagsLegal s.complete := hs

theorem flagsLegal_takeFatal (hs : flagsLegal s) (e : FatalError) : flagsLegal (s.takeFatal e) := by
  obtain ⟨hcodes, hregs⟩ := hs
  exact ⟨codesLegal_fatal hcodes e, hregs⟩

theorem flagsLegal_endFrame (hs : flagsLegal s) : flagsLegal s.endFrame := by
  obtain ⟨hcodes, hregs⟩ := hs
  exact ⟨codesLegal_frame hcodes false s.status.pcmv, hregs⟩

theorem flagsLegal_commit (hs : flagsLegal s) : flagsLegal s.commit := hs

/-- SeqCheck leaves a legal SEQ and at most raises a warning (40_control.md R163). -/
theorem flagsLegal_seqCheck (hs : flagsLegal s) (n : Nat) : flagsLegal (s.seqCheck n) := by
  obtain ⟨hcodes, hfcfg, -⟩ := hs
  rw [seqCheck_eq]
  refine ⟨?_, hfcfg, seqLegal_seqWord n⟩
  by_cases h : sequenceBroken s n
  · exact seqCheck_status_of_broken h ▸ codesLegal_raiseWarning hcodes _
  · exact seqCheck_status_of_not_broken h ▸ hcodes

theorem flagsLegal_beginFrame (hs : flagsLegal s) {f m : BitVec 4} {d : BitVec 2} {indep seqp : Bool}
    (hf : f.toNat ≤ 8) : flagsLegal (beginFrame f m d indep seqp s) := by
  obtain ⟨hcodes, -, hseq⟩ := hs
  have hopen : flagsLegal (s.openFrame (flbTable.getD f.toNat 0) (0#21 ++ BitVec.ofBool indep ++ d ++ m ++ f) indep) :=
    ⟨codesLegal_frame hcodes true false, fcfgLegal_fbegin hf, hseq⟩
  unfold beginFrame
  dsimp only
  split
  · exact flagsLegal_seqCheck hopen _
  · exact hopen

theorem pseudocode_keeps_flagsLegal (hs : flagsLegal s) (h : pseudocode i s = .ok u) : flagsLegal u := by
  cases hi : writesFlags i with
  | false => exact flagsLegal_of_kept hs (pseudocode_keeps_flags hi h)
  | true =>
    unfold pseudocode at h
    cases i with
    | fbegin =>
      obtain ⟨⟨-, hf, -⟩, rfl⟩ := fbeginBody_ok_iff.1 h
      exact flagsLegal_beginFrame hs hf
    | fcommit =>
      obtain ⟨-, ⟨-, rfl⟩ | ⟨-, -, rfl⟩⟩ := fcommitBody_ok.1 h
      · exact flagsLegal_endFrame hs
      · exact flagsLegal_endFrame (flagsLegal_commit hs)
    | fabort =>
      obtain ⟨-, rfl⟩ := fabortBody_ok.1 h
      exact flagsLegal_endFrame hs
    | arith =>
      obtain ⟨-, -, -, -, f, -, -, rfl⟩ := arithBody_ok h
      obtain ⟨hcodes, hregs⟩ := hs
      exact ⟨codesLegal_raiseWarning hcodes _, hregs⟩
    | _ => cases hi

theorem exec_keeps_flagsLegal (hs : flagsLegal s) (h : exec i s = .next t) : flagsLegal t := by
  obtain ⟨u, hu, rfl⟩ | ⟨e, -, rfl⟩ := exec_next.1 h
  · obtain ⟨-, -, rfl⟩ | hu := outcome_ok hu
    · exact flagsLegal_complete hs
    · exact flagsLegal_complete (pseudocode_keeps_flagsLegal hs hu)
  · exact flagsLegal_takeFatal hs e

theorem runCommand_keeps_flagsLegal (hs : flagsLegal s) (h : s.runCommand = .next t) : flagsLegal t := by
  obtain ⟨i, -, hi⟩ | ⟨e, -, rfl⟩ := runCommand_next.1 h
  · exact exec_keeps_flagsLegal hs hi
  · exact flagsLegal_takeFatal hs _

/-! ### The host's accesses -/

theorem flagsLegal_hostError (hs : flagsLegal s) : flagsLegal s.hostError := hs

theorem flagsLegal_advanceHaddr (hs : flagsLegal s) : flagsLegal s.advanceHaddr := hs

theorem flagsLegal_powerOn (p : Params) : flagsLegal (State.powerOn p) :=
  ⟨⟨nofun, fun _ => rfl, nofun, fun _ => rfl, nofun⟩, fcfgLegal_zero, seqLegal_zero⟩

theorem flagsLegal_blockReset (s : State) : flagsLegal s.blockReset := flagsLegal_powerOn s.cfg

theorem memWrite_keeps_flags {space k : Nat} {v : Word} : flagsKept s (s.memWrite space k v) := by
  unfold State.memWrite
  split <;> exact flagsKept_refl s

theorem flagsLegal_writeHdata (hs : flagsLegal s) (v : Word) : flagsLegal (s.writeHdata v) := by
  unfold State.writeHdata
  split
  · exact flagsLegal_advanceHaddr (flagsLegal_of_kept hs memWrite_keeps_flags)
  · exact flagsLegal_advanceHaddr (flagsLegal_hostError hs)

theorem flagsLegal_writeCtrl (hs : flagsLegal s) (v : Word) : flagsLegal (s.writeCtrl v) := by
  unfold State.writeCtrl
  split
  · exact flagsLegal_blockReset s
  · exact hs

theorem flagsLegal_writeRegister (hs : flagsLegal s) (offset : Nat) (v : Word) :
    flagsLegal (s.writeRegister offset v) := by
  unfold State.writeRegister
  split
  case h_1 => exact flagsLegal_writeCtrl hs v
  case h_2 =>
    obtain ⟨hcodes, hregs⟩ := hs
    exact ⟨codesLegal_w1c hcodes v, hregs⟩
  case h_7 => exact flagsLegal_writeHdata hs v
  all_goals exact hs

theorem flagsLegal_readRegister (hs : flagsLegal s) (offset : Nat) : flagsLegal (s.readRegister offset) := by
  unfold State.readRegister State.readHdata
  split_ifs <;> exact hs

theorem flagsLegal_abandon (s : State) : flagsLegal s.abandon := by
  unfold State.abandon
  split <;> exact flagsLegal_blockReset _

theorem access_keeps_flagsLegal {a : HostAccess} (hs : flagsLegal s) (h : s.access a = .next t) : flagsLegal t := by
  obtain ⟨-, ⟨v, -, rfl⟩ | ⟨-, rfl⟩⟩ := access_next.1 h
  · exact flagsLegal_writeRegister hs _ v
  · exact flagsLegal_readRegister hs _

theorem busyAccess_keeps_flagsLegal {a : HostAccess} (hs : flagsLegal s) (h : s.busyAccess a = .next t) :
    flagsLegal t := by
  obtain rfl | rfl | ⟨v, rfl⟩ := busyAccess_next h
  · exact flagsLegal_readRegister hs _
  · exact flagsLegal_abandon s
  · exact flagsLegal_writeCtrl hs v

theorem step_keeps_flagsLegal (hs : flagsLegal s) (h : step s = .next t) : flagsLegal t := by
  obtain ⟨-, -, rfl⟩ | ⟨-, hrun⟩ | ⟨a, q, -, ⟨-, hacc⟩ | ⟨-, -, hacc⟩⟩ := step_next h
  · exact hs
  · exact runCommand_keeps_flagsLegal hs hrun
  · exact access_keeps_flagsLegal (s := { s with hostQ := q }) hs hacc
  · exact busyAccess_keeps_flagsLegal (s := { s with hostQ := q }) hs hacc

/-- Settles O20: by the one case analysis of a step, from what a command's end, a warning, the two ends of a frame and
each host access make of the codes. -/
theorem registersStayLegal : Obligations.RegistersStayLegal := fun _ _ hstatus hregs h =>
  flagsLegal_iff.1 (step_keeps_flagsLegal (flagsLegal_iff.2 ⟨hstatus, hregs⟩) h)

end Sys2Proof.Proofs

/-! Fatal errors are precise (60_exceptions.md R381). A command does not read DONE, ERR and ERRCODE: each function its
pseudocode calls answers the same with them cleared, so the outcome is the same but for these fields. What the end of the
command then does to STATUS is said once for every command. -/

namespace Sys2Proof.Proofs

open Sys2Proof Sys2Proof.Machine Sys2Proof.Laws Sys2Proof.Config

variable {s t u : State} {i : Instr}

/-! ### A state with DONE, ERR and ERRCODE cleared -/

/-- `s` with DONE, ERR and ERRCODE cleared. -/
def unmarked (s : State) : State := { s with status := { s.status with done := false, err := false, errcode := 0 } }

/-! ### What reads no marks -/

theorem readBits_unmarked (n : Nat) : readBits (unmarked s) n = readBits s n := by
  have hloop : readBitsFrom (unmarked s) = readBitsFrom s := by delta readBitsFrom; rfl
  unfold readBits
  rw [hloop]
  rfl

theorem readUnary_unmarked (stop : Bool) (maxLen : Nat) : readUnary (unmarked s) stop maxLen = readUnary s stop maxLen := by
  have hloop : readUnaryFrom (unmarked s) = readUnaryFrom s := by delta readUnaryFrom; rfl
  rw [readUnary, hloop, readUnary]

theorem readVlc_unmarked (table : Nat) : readVlc (unmarked s) table = readVlc s table := by
  have hloop : readVlcFrom (unmarked s) = readVlcFrom s := by delta readVlcFrom; rfl
  unfold readVlc
  rw [hloop]
  rfl

theorem readEscFrom_unmarked (base max fuel value : Nat) :
    readEscFrom (unmarked s) base max fuel value = readEscFrom s base max fuel value := by
  induction fuel generalizing value with
  | zero => rfl
  | succ n ih => simp only [readEscFrom, ih, readBits_unmarked]

theorem readEsc_unmarked (base max : Nat) : readEsc (unmarked s) base max = readEsc s base max :=
  funext fun _ => congrFun (readEscFrom_unmarked base max _ 0) _

theorem readRun_unmarked (lenBits fuel len : Nat) :
    readRun (unmarked s) lenBits fuel len = readRun s lenBits fuel len := by
  induction fuel generalizing len with
  | zero => rfl
  | succ n ih => simp only [readRun, ih, readBits_unmarked]

theorem readSections_unmarked (lenBits ms fuel b : Nat) :
    readSections (unmarked s) lenBits ms fuel b = readSections s lenBits ms fuel b := by
  induction fuel generalizing b with
  | zero => rfl
  | succ n ih =>
    simp only [readSections, ih, readBits_unmarked, readRun_unmarked]
    rfl

theorem readSigns_unmarked (l : List Int) : readSigns (unmarked s) l = readSigns s l := by
  induction l with
  | nil => rfl
  | cons v l ih => simp only [readSigns, readSign, ih, readBits_unmarked]

theorem readEscapes_unmarked (l : List Int) : readEscapes (unmarked s) l = readEscapes s l := by
  induction l with
  | nil => rfl
  | cons v l ih => simp only [readEscapes, readEscape, ih, readUnary_unmarked, readBits_unmarked]

theorem decodeTuple_unmarked (d : CbDesc) (table : Nat) : decodeTuple (unmarked s) d table = decodeTuple s d table := by
  simp only [decodeTuple, tupleSigns, tupleEscapes, readVlc_unmarked, readSigns_unmarked, readEscapes_unmarked]

theorem readTuples_unmarked (d : CbDesc) (table n : Nat) :
    readTuples (unmarked s) d table n = readTuples s d table n := by
  induction n with
  | zero => rfl
  | succ n ih => simp only [readTuples, ih, decodeTuple_unmarked]

theorem readAllSections_unmarked (x : ChannelState) (g : Nat) (l : List (Option Nat × List Nat)) :
    readAllSections (unmarked s) x g l = readAllSections s x g l := by
  induction l with
  | nil => rfl
  | cons e l ih =>
    simp only [readAllSections, readSection, ih, readTuples_unmarked]
    rfl

theorem readSf_unmarked (a : SfAcc) : readSf (unmarked s) a = readSf s a := by
  simp only [readSf, readSfValue, readBits_unmarked, readVlc_unmarked]
  rfl

theorem readSfs_unmarked (f : ChanFrame) (g : Nat) (snfp : Bool) (l : List Nat) (a : SfAcc) :
    readSfs (unmarked s) f g snfp l a = readSfs s f g snfp l a := by
  induction l generalizing a with
  | nil => rfl
  | cons b l ih =>
    simp only [readSfs, ih, readSf_unmarked, readVlc_unmarked]
    rfl

theorem layoutGroups_unmarked : layoutGroups (unmarked s) = layoutGroups s := by delta layoutGroups; rfl

theorem stereoBands_unmarked : stereoBands (unmarked s) = stereoBands s := by delta stereoBands; rfl

theorem stereoGroups_unmarked (c c2 : Fin 8) (mode : Int) (l : List Nat) (acc : Int) :
    stereoGroups (unmarked s) c c2 mode l acc = stereoGroups s c c2 mode l acc := by
  induction l generalizing acc with
  | nil => rfl
  | cons g l ih =>
    simp only [stereoGroups, ih, stereoBands_unmarked]
    rfl

theorem decodeSignal_unmarked : decodeSignal (unmarked s) = decodeSignal s := by delta decodeSignal; rfl

theorem decodeNoise_unmarked : decodeNoise (unmarked s) = decodeNoise s := by delta decodeNoise; rfl

theorem assembleSlots_unmarked : assembleSlots (unmarked s) = assembleSlots s := by delta assembleSlots; rfl

/-! ### What the pseudocode answers with the marks cleared -/

theorem except_map_bind {ε α β γ : Type} (x : Except ε α) (f : α → Except ε β) (g : β → γ) :
    (x >>= f).map g = x >>= fun a => (f a).map g := by
  cases x <;> rfl

theorem chresetBody_unmarked (c : Fin 8) : chresetBody c (unmarked s) = (chresetBody c s).map unmarked := by
  cases ho : s.status.fopen with
  | true => rw [chresetBody_of_open ho, chresetBody_of_open (s := unmarked s) ho]; rfl
  | false => rw [chresetBody_of_closed ho, chresetBody_of_closed (s := unmarked s) ho]; rfl

theorem seqCheck_unmarked (n : Nat) : (unmarked s).seqCheck n = unmarked (s.seqCheck n) := by
  unfold State.seqCheck
  dsimp only
  have hcond : ((unmarked s).seqValid && n != ((unmarked s).seqPrev + 1) % seqMod) =
    (s.seqValid && n != (s.seqPrev + 1) % seqMod) := rfl
  rw [hcond]
  split <;> rfl

theorem fbeginBody_unmarked (f m : BitVec 4) (d : BitVec 2) (indep seqp : Bool) :
    fbeginBody f m d indep seqp (unmarked s) = (fbeginBody f m d indep seqp s).map unmarked := by
  have hseq (n : Nat) (t : State) : unmarked (if seqp then t.seqCheck n else t) =
      if seqp then (unmarked t).seqCheck n else unmarked t := by
    cases seqp
    · rfl
    · exact (seqCheck_unmarked n).symm
  simp only [fbeginBody, except_map_bind]
  simp only [pure, Except.pure, Except.map, hseq]
  rfl

theorem fcommitBody_unmarked : fcommitBody (unmarked s) = (fcommitBody s).map unmarked := by
  have hfail : (unmarked s).status.ffail = s.status.ffail := rfl
  simp only [fcommitBody, except_map_bind, hfail]
  cases s.status.ffail with
  | true => rfl
  | false =>
    simp only [Bool.false_eq_true, if_false, except_map_bind]
    rfl

theorem readCommand_unmarked {ok : Bool} {m : State → BitM Nat} (hm : m (unmarked s) = m s) :
    readCommand ok m (unmarked s) = (readCommand ok m s).map unmarked := by
  simp only [readCommand, except_map_bind, hm]
  rfl

/-- No pseudocode reads DONE, ERR or ERRCODE. -/
theorem pseudocode_unmarked (i : Instr) (s : State) : pseudocode i (unmarked s) = (pseudocode i s).map unmarked := by
  unfold pseudocode
  cases i with
  | nop => rfl
  | chreset => exact chresetBody_unmarked _
  | fbegin => exact fbeginBody_unmarked _ _ _ _ _
  | fcommit => exact fcommitBody_unmarked
  | rdbits => exact readCommand_unmarked (readBits_unmarked _)
  | rdunary => exact readCommand_unmarked (readUnary_unmarked _ _)
  | rdvlc => exact readCommand_unmarked (readVlc_unmarked _)
  | rdesc => exact readCommand_unmarked (readEsc_unmarked _ _)
  | setlayout => simp only [setlayoutBody, except_map_bind, layoutGroups_unmarked]; rfl
  | sect => simp only [sectBody, except_map_bind, readSections_unmarked]; rfl
  | spec => simp only [specBody, except_map_bind, readAllSections_unmarked]; rfl
  | sf => simp only [sfBody, except_map_bind, readSfs_unmarked]; rfl
  | stereo => simp only [stereoBody, except_map_bind, stereoGroups_unmarked]; rfl
  | aspxenv => simp only [aspxenvBody, except_map_bind, decodeSignal_unmarked, decodeNoise_unmarked]; rfl
  | aspxasm => simp only [aspxasmBody, except_map_bind, assembleSlots_unmarked]; rfl
  | fabort => simp only [fabortBody, except_map_bind]; rfl
  | arith => simp only [arithBody, except_map_bind]; rfl
  | deq => simp only [deqBody, except_map_bind]; rfl
  | imdct => simp only [imdctBody, except_map_bind]; rfl
  | qmfa => simp only [qmfaBody, except_map_bind]; rfl
  | qmfs => simp only [qmfsBody, except_map_bind]; rfl
  | aspxcfg => simp only [aspxcfgBody, except_map_bind]; rfl
  | aspxhf => simp only [aspxhfBody, except_map_bind]; rfl
  | aspxgain => simp only [aspxgainBody, except_map_bind]; rfl

/-- No command's outcome depends on DONE, ERR or ERRCODE. -/
theorem outcome_unmarked (i : Instr) (s : State) : outcome i (unmarked s) = (outcome i s).map unmarked := by
  unfold outcome
  rw [pseudocode_unmarked, show (unmarked s).failedFrame = s.failedFrame from rfl]
  split_ifs <;> rfl

/-! ### The two ends of a command -/

/-- No pseudocode writes ERR or ERRCODE. -/
theorem pseudocode_keeps_err (h : pseudocode i s = .ok u) :
    u.status.err = s.status.err ∧ u.status.errcode = s.status.errcode := by
  cases hi : writesFlags i with
  | false =>
    obtain ⟨hstatus, -⟩ := pseudocode_keeps_flags hi h
    rw [hstatus]
    exact ⟨rfl, rfl⟩
  | true =>
    unfold pseudocode at h
    cases i with
    | fbegin f m d indep seqp =>
      obtain ⟨-, rfl⟩ := fbeginBody_ok_iff.1 h
      by_cases hgap : seqp = true ∧ sequenceBroken s s.argSeq
      · rw [beginFrame_status_of_gap hgap.1 hgap.2]
        exact ⟨rfl, rfl⟩
      · rw [beginFrame_status_of_no_gap hgap]
        exact ⟨rfl, rfl⟩
    | fcommit => obtain ⟨-, ⟨-, rfl⟩ | ⟨-, -, rfl⟩⟩ := fcommitBody_ok.1 h <;> exact ⟨rfl, rfl⟩
    | fabort =>
      obtain ⟨-, rfl⟩ := fabortBody_ok.1 h
      exact ⟨rfl, rfl⟩
    | arith =>
      obtain ⟨-, -, -, -, f, -, -, rfl⟩ := arithBody_ok h
      exact ⟨rfl, rfl⟩
    | _ => cases hi

theorem outcome_keeps_err (h : outcome i s = .ok u) :
    u.status.err = s.status.err ∧ u.status.errcode = s.status.errcode := by
  obtain ⟨-, -, rfl⟩ | h := outcome_ok h
  · exact ⟨rfl, rfl⟩
  · exact pseudocode_keeps_err h

/-- A fatal error is a state with nothing changed but STATUS (60_exceptions.md R381). -/
theorem takeFatal_eq_failedWith (e : FatalError) : s.takeFatal e = s.failedWith e.code := rfl

/-- What a command about to run steps to: its completed outcome, or the fatal error of its outcome or of its word; and
the same from the state with the marks cleared. -/
theorem step_of_aboutToRun_cases (hs : s.aboutToRun) (h : step s = .next t) :
    (∃ u, t = u.complete ∧ u.status.err = s.status.err ∧ u.status.errcode = s.status.errcode ∧
      step (unmarked s) = .next (unmarked u).complete) ∨
    ∃ e, t = s.takeFatal e ∧ step (unmarked s) = .next ((unmarked s).takeFatal e) := by
  have hs0 : (unmarked s).aboutToRun := hs
  cases hd : decode s.cmd with
  | error x =>
    rw [step_of_decode_error hs hd] at h
    exact .inr ⟨.illegalCommand, (Host.Outcome.next.inj h).symm, step_of_decode_error hs0 hd⟩
  | ok i =>
    rw [step_of_decode_ok hs hd] at h
    rw [step_of_decode_ok hs0 hd, exec_eq_finish_outcome, outcome_unmarked]
    obtain ⟨u, hu, rfl⟩ | ⟨e, he, rfl⟩ := exec_next.1 h
    · obtain ⟨herr, hcode⟩ := outcome_keeps_err hu
      exact .inl ⟨u, rfl, herr, hcode, by rw [hu]; rfl⟩
    · exact .inr ⟨e, rfl, by rw [he]; rfl⟩

/-- Settles O7: the outcome of a command does not depend on DONE, ERR and ERRCODE, and it is finished by DONE or by the
fatal error alone. -/
theorem fatalErrorsArePrecise : Obligations.FatalErrorsArePrecise := by
  intro s t hs h
  obtain ⟨u, rfl, herr, hcode, h0⟩ | ⟨e, rfl, h0⟩ := step_of_aboutToRun_cases hs h
  · exact ⟨rfl, .inl ⟨_, h0, rfl, rfl, rfl, herr, hcode⟩⟩
  · exact ⟨rfl, .inr ⟨e, takeFatal_eq_failedWith e, (fatalError_code_range e).1, (fatalError_code_range e).2, h0⟩⟩

end Sys2Proof.Proofs

/-! A failed frame (60_exceptions.md R383) and the order of stages (70_reset_and_hazards.md R433). When a command is
discarded; which checks stand at the head of each pseudocode and that the first of them to fail raises IllegalCommand. -/

namespace Sys2Proof.Proofs

open Sys2Proof Sys2Proof.Machine Sys2Proof.Laws Sys2Proof.Config

variable {s t u : State} {i : Instr}

/-! ### Outcomes -/

theorem slots_all_ok {slots : List (BitVec 4)} (h : ∀ c ∈ slots, c.toNat < 8) : slots.all slotOk = true :=
  List.all_eq_true.2 fun c hc => slotOk_eq_true (h c hc)

theorem outcome_of_discarded (hslots : ∀ c ∈ i.slots, c.toNat < 8) (hf : s.failedFrame = true)
    (hi : discardable i = true) : outcome i s = .ok s := by
  simp [outcome, slots_all_ok hslots, hf, hi]

theorem outcome_of_not_failed (hslots : ∀ c ∈ i.slots, c.toNat < 8) (hf : s.failedFrame = false) :
    outcome i s = pseudocode i s := by
  simp [outcome, slots_all_ok hslots, hf]

/-- A discarded command has no effect but DONE (60_exceptions.md R383). -/
theorem exec_of_discarded (hslots : ∀ c ∈ i.slots, c.toNat < 8) (hf : s.failedFrame = true)
    (hi : discardable i = true) : exec i s = .next s.ended := by
  rw [exec_eq_finish_outcome, outcome_of_discarded hslots hf hi]
  rfl

/-- Settles O8: the decoder and the slot check come before the discard, which FBEGIN, FCOMMIT, FABORT and NOP do not
have. -/
theorem failedFrameDiscards : Obligations.FailedFrameDiscards := by
  refine fun s ho hf => ⟨fun hs e hd => step_of_decode_error hs hd, fun i => ⟨exec_of_bad_slot, fun hslots => ?_⟩⟩
  have hfailed : s.failedFrame = true := by simp [State.failedFrame, ho, hf]
  cases i with
  | nop => rfl
  | fcommit => exact ⟨_, exec_fcommit_of_ok (fcommitBody_of_failed ho hf), rfl, rfl, rfl, rfl, rfl, rfl, rfl⟩
  | fabort => exact ⟨_, exec_fabort_of_open ho, rfl, rfl, rfl, rfl, rfl, rfl, rfl⟩
  | fbegin => exact exec_fbegin_of_not_allowed fun ⟨hclosed, _⟩ => by simp [ho] at hclosed
  | _ => exact exec_of_discarded hslots hfailed rfl

/-! ### Checks that fail -/

section
variable {α β : Type} {e : FatalError}

/-- Two checks in a row that can only raise `e`, one of which fails. -/
theorem bind_eq_raise {r : Except Stop α} {f : α → Except Stop β} (hr : StopsOnlyWith e r)
    (hf : ∀ a, r = .ok a → f a = raise e) : r >>= f = raise e := by
  cases r with
  | error x => rw [hr x rfl]; rfl
  | ok a => exact hf a rfl

theorem bind_eq_raise_of_not_ok {r : Except Stop α} {f : α → Except Stop β} (hr : StopsOnlyWith e r)
    (hno : ∀ a, r ≠ .ok a) : r >>= f = raise e :=
  bind_eq_raise hr fun a ha => absurd ha (hno a)

theorem bind_of_eq_raise {r : Except Stop α} {f : α → Except Stop β} (h : r = raise e) : r >>= f = raise e := by
  rw [h]
  rfl

theorem eq_raise_of_not_ok {r : Except Stop α} (hr : StopsOnlyWith e r) (hno : ∀ a, r ≠ .ok a) : r = raise e := by
  cases r with
  | error x => rw [hr x rfl]; rfl
  | ok a => exact absurd rfl (hno a)

theorem stopsOnlyWith_requireOpen : StopsOnlyWith .illegalCommand s.requireOpen := stopsOnlyWith_require _ _

theorem bind_requireOpen_of_closed {f : Unit → Except Stop α} (h : ¬s.status.fopen = true) :
    s.requireOpen >>= f = raise .illegalCommand :=
  bind_eq_raise_of_not_ok stopsOnlyWith_requireOpen fun _ ho => h (requireOpen_ok.1 ho)

/-- `require F.open` and a check behind it. -/
theorem bind_requireOpen_require {b : Bool} {f : Unit → Except Stop α} (h : ¬(s.status.fopen = true ∧ b = true)) :
    (s.requireOpen >>= fun _ => require b .illegalCommand >>= f) = raise .illegalCommand :=
  bind_eq_raise stopsOnlyWith_requireOpen fun _ ho =>
    bind_eq_raise_of_not_ok (stopsOnlyWith_require _ _) fun _ hb => h ⟨requireOpen_ok.1 ho, require_ok.1 hb⟩

theorem bind_requireGroup_of_not_done {c : Fin 8} {g : Nat} {l : List Stage} {f : Unit → Except Stop α}
    (h : ¬(s.status.fopen = true ∧ l.all (s.done c) = true)) : s.requireGroup c g l >>= f = raise .illegalCommand :=
  bind_eq_raise_of_not_ok
    (stopsOnlyWith_bind (stopsOnlyWith_require _ _) fun _ _ => stopsOnlyWith_bind (stopsOnlyWith_require _ _) fun _ _ =>
      stopsOnlyWith_require _ _)
    fun _ hok => by
      obtain ⟨ho, -, hl⟩ := requireGroup_ok.1 hok
      exact h ⟨ho, hl⟩

end

/-! ### The stages a command needs -/

/-- A slot may be mixed: all its groups are dequantized, and neither STEREO nor IMDCT is done (70_reset_and_hazards.md
R433). -/
def mixable (s : State) (c : Fin 8) : Prop :=
  s.allDequantized c = true ∧ s.done c .stereo = false ∧ s.done c .imdct = false

/-- What a command asks of the frame and its stages before anything else: the table of 70_reset_and_hazards.md R433, but
for the partner of ASPXGAIN. -/
def ready (s : State) : Instr → Prop
  | .nop | .chreset _ | .fbegin _ _ _ _ _ => True
  | .fabort | .setlayout _ | .rdbits _ | .rdunary _ _ | .rdvlc _ | .rdesc _ => s.status.fopen = true
  | .fcommit => s.status.fopen = true ∧ (s.status.ffail = false → s.pipelinesComplete = true)
  | .sect c _ _ | .arith c _ => s.status.fopen = true ∧ s.done (slotOf c) .layout = true
  | .spec c g => s.status.fopen = true ∧ s.done (slotOf c) (.sect g.toFin) = true
  | .sf c g _ => s.status.fopen = true ∧ s.done (slotOf c) (.spec g.toFin) = true ∧
      (g ≠ 0 → s.done (slotOf c) (.sf (g - 1).toFin) = true)
  | .deq c g => s.status.fopen = true ∧ s.done (slotOf c) (.sf g.toFin) = true
  | .stereo c c2 => s.status.fopen = true ∧ mixable s (slotOf c) ∧ mixable s (slotOf c2)
  | .imdct c => s.status.fopen = true ∧ s.allDequantized (slotOf c) = true ∧ s.done (slotOf c) .imdct = false
  | .qmfa c => s.status.fopen = true ∧ s.done (slotOf c) .imdct = true ∧ s.done (slotOf c) .qmfa = false
  | .aspxcfg c => s.status.fopen = true ∧ s.done (slotOf c) .qmfa = true ∧ s.done (slotOf c) .axcfg = false
  | .aspxenv c => s.status.fopen = true ∧ s.done (slotOf c) .axcfg = true ∧ s.done (slotOf c) .axenv = false
  | .aspxhf c => s.status.fopen = true ∧ s.done (slotOf c) .axenv = true ∧ s.done (slotOf c) .axhf = false
  | .aspxgain c => s.status.fopen = true ∧ s.done (slotOf c) .axhf = true ∧ s.done (slotOf c) .axgain = false
  | .aspxasm c => s.status.fopen = true ∧ s.done (slotOf c) .axgain = true ∧ s.done (slotOf c) .axasm = false
  | .qmfs c => s.status.fopen = true ∧ s.done (slotOf c) .qmfa = true ∧ s.done (slotOf c) .qmfs = false ∧
      (s.done (slotOf c) .axcfg = true → s.done (slotOf c) .axasm = true)

theorem requireStereo_ok {c : Fin 8} {v : Unit} : s.requireStereo c = .ok v ↔ mixable s c := by
  simp [State.requireStereo, bind_ok, mixable]

theorem stopsOnlyWith_requireStereo {c : Fin 8} : StopsOnlyWith .illegalCommand (s.requireStereo c) :=
  stopsOnlyWith_bind (stopsOnlyWith_require _ _) fun _ _ => stopsOnlyWith_require _ _

theorem readCommand_of_closed {ok : Bool} {m : State → BitM Nat} (h : ¬s.status.fopen = true) :
    readCommand ok m s = raise .illegalCommand := bind_requireOpen_of_closed h

theorem sfBody_of_not_ready {c g : BitVec 4} {snfp : Bool} (h : ¬ready s (.sf c g snfp)) :
    sfBody (slotOf c) (groupOf g) snfp s = raise .illegalCommand := by
  refine bind_requireGroup_of_not_done fun ⟨ho, hl⟩ => h ⟨ho, ?_⟩
  rw [sfStages] at hl
  split at hl
  · next hg => exact ⟨by simpa [groupOf] using hl, fun hne => absurd (BitVec.eq_of_toNat_eq (y := 0#4) hg) hne⟩
  · rw [List.all_cons, List.all_cons, List.all_nil, Bool.and_true, Bool.and_eq_true] at hl
    exact ⟨hl.1, fun _ => hl.2⟩

theorem stereoBody_of_not_mixable {c c2 : Fin 8} (h : ¬(s.status.fopen = true ∧ mixable s c ∧ mixable s c2)) :
    stereoBody c c2 s = raise .illegalCommand :=
  bind_eq_raise stopsOnlyWith_requireOpen fun _ ho => bind_eq_raise (stopsOnlyWith_require _ _) fun _ _ =>
    bind_eq_raise stopsOnlyWith_requireStereo fun _ h1 =>
      bind_eq_raise_of_not_ok stopsOnlyWith_requireStereo fun _ h2 =>
        h ⟨requireOpen_ok.1 ho, requireStereo_ok.1 h1, requireStereo_ok.1 h2⟩

theorem requireImdct_of_not_ready {c : Fin 8} {α : Type} {f : Unit → Except Stop α}
    (h : ¬(s.status.fopen = true ∧ s.allDequantized c = true ∧ s.done c .imdct = false)) :
    s.requireImdct c >>= f = raise .illegalCommand := by
  have hraise : s.requireImdct c = raise .illegalCommand :=
    bind_eq_raise stopsOnlyWith_requireOpen fun _ ho => bind_eq_raise (stopsOnlyWith_require _ _) fun _ hdeq =>
      bind_eq_raise_of_not_ok (stopsOnlyWith_require _ _) fun _ hdone =>
        h ⟨requireOpen_ok.1 ho, require_ok.1 hdeq, by simpa using require_ok.1 hdone⟩
  exact bind_of_eq_raise hraise

theorem requireQmfs_of_not_ready {c : BitVec 4} (h : ¬ready s (.qmfs c)) :
    s.requireQmfs (slotOf c) = raise .illegalCommand := by
  refine bind_eq_raise stopsOnlyWith_requireOpen fun _ ho => bind_eq_raise (stopsOnlyWith_require _ _) fun _ hqmfa =>
    bind_eq_raise_of_not_ok (stopsOnlyWith_require _ _) fun _ hasm => h ?_
  simp only [require_ok, Bool.and_eq_true, Bool.not_eq_true', Bool.or_eq_true] at hqmfa hasm
  exact ⟨requireOpen_ok.1 ho, hqmfa.1, hqmfa.2, fun hcfg => hasm.resolve_left (by simp [hcfg])⟩

/-- A command that is not ready raises IllegalCommand before anything else (70_reset_and_hazards.md R433). -/
theorem pseudocode_of_not_ready (h : ¬ready s i) : pseudocode i s = raise .illegalCommand := by
  have hstages {a b : Bool} (h : ¬(s.status.fopen = true ∧ a = true ∧ b = false)) :
      ¬(s.status.fopen = true ∧ (a && !b) = true) := by simpa using h
  have hgroup {c : Fin 8} {x : Stage} (h : ¬(s.status.fopen = true ∧ s.done c x = true)) :
      ¬(s.status.fopen = true ∧ [x].all (s.done c) = true) := by simpa using h
  unfold pseudocode
  cases i with
  | nop | chreset | fbegin => exact absurd trivial h
  | fabort => exact bind_requireOpen_of_closed h
  | setlayout => exact bind_requireOpen_of_closed h
  | rdbits | rdunary | rdvlc | rdesc => exact readCommand_of_closed h
  | fcommit =>
    refine eq_raise_of_not_ok fcommitBody_stopsOnlyWith fun u hu => h ?_
    obtain ⟨ho, ⟨hf, -⟩ | ⟨-, hdone, -⟩⟩ := fcommitBody_ok.1 hu
    · exact ⟨ho, fun hf' => by simp [hf] at hf'⟩
    · exact ⟨ho, fun _ => hdone⟩
  | sect => exact bind_requireGroup_of_not_done (hgroup h)
  | arith => exact bind_requireGroup_of_not_done (hgroup h)
  | spec => exact bind_requireGroup_of_not_done (hgroup h)
  | deq => exact bind_requireGroup_of_not_done (hgroup h)
  | sf => exact sfBody_of_not_ready h
  | stereo => exact stereoBody_of_not_mixable h
  | imdct => exact requireImdct_of_not_ready h
  | qmfa => exact bind_of_eq_raise (bind_requireOpen_require (hstages h))
  | aspxcfg => exact bind_requireOpen_require (hstages h)
  | aspxenv => exact bind_requireOpen_require (hstages h)
  | aspxhf => exact bind_requireOpen_require (hstages h)
  | aspxgain => exact bind_requireOpen_require (hstages h)
  | aspxasm => exact bind_of_eq_raise (bind_requireOpen_require (hstages h))
  | qmfs => exact bind_of_eq_raise (requireQmfs_of_not_ready h)

theorem exec_of_raise {e : FatalError} (hslots : ∀ c ∈ i.slots, c.toNat < 8) (hf : s.failedFrame = false)
    (h : pseudocode i s = raise e) : exec i s = .next (s.failedWith e.code) := by
  rw [exec_eq_finish_outcome, outcome_of_not_failed hslots hf, h]
  rfl

theorem exec_of_not_ready (hslots : ∀ c ∈ i.slots, c.toNat < 8) (hf : s.failedFrame = false) (h : ¬ready s i) :
    exec i s = .next (s.failedWith 6) := exec_of_raise hslots hf (pseudocode_of_not_ready h)

/-- ASPXGAIN of a slot whose partner has no envelopes (46_aspx_synthesis.md R352). -/
theorem aspxgainBody_of_partner_undone {c d : Fin 8} (hs : s.running)
    (hmode : s.simWord c Sim.axQmode = 0 ∨ s.simWord c Sim.axQmode = 1) (hcoded : s.simWord c Sim.axBalance = 1)
    (hpartner : s.simWord c Sim.axPartner = d.val) (hne : d ≠ c) (hdone : s.done d .axenv = false)
    (haxhf : s.done c .axhf = true) (haxgain : s.done c .axgain = false) :
    aspxgainBody c s = raise .illegalCommand := by
  obtain ⟨a, ha⟩ : ∃ a, s.qDiv c = .ok a :=
    hmode.elim (fun h => ⟨2, qDiv_ok_iff.2 (.inl ⟨h, rfl⟩)⟩) fun h => ⟨1, qDiv_ok_iff.2 (.inr ⟨h, rfl⟩)⟩
  exact aspxgainBody_of_bad_balance hs haxhf haxgain ha (balanceSetup_of_partner_undone hcoded hpartner hne hdone)

/-- Outside a frame no command is ready but NOP, CHRESET and FBEGIN. -/
theorem not_ready_of_closed (ho : s.status.fopen = false) (hi : ¬(i matches .nop | .chreset _ | .fbegin _ _ _ _ _)) :
    ¬ready s i := by
  have hclosed : ¬s.status.fopen = true := by simp [ho]
  cases i with
  | nop | chreset | fbegin => simp at hi
  | fabort | setlayout | rdbits | rdunary | rdvlc | rdesc => exact hclosed
  | _ => exact fun h => hclosed h.1

/-- Settles O17: a row says that the command is not ready, or that the partner of a ready ASPXGAIN has no envelopes. -/
theorem stageOrderIsEnforced : Obligations.StageOrderIsEnforced := by
  refine ⟨fun s c g i hs hc hrow => ?_, fun s i ho hslots hi => ?_⟩
  · have hf := failedFrame_of_running hs
    have hslot : ∀ d ∈ [c], d.toNat < 8 := by simpa using hc
    rcases hrow with ⟨⟨n, rfl⟩, h⟩ | ⟨rfl, h⟩ | ⟨rfl, h⟩ | ⟨⟨p, rfl⟩, h⟩ | ⟨rfl, h⟩ | ⟨⟨c2, hc2, hi⟩, h⟩ | ⟨rfl, h⟩ |
      ⟨rfl, h⟩ | ⟨rfl, h⟩ | ⟨rfl, h⟩ | ⟨rfl, h⟩ | ⟨rfl, h⟩ | ⟨rfl, hmode, hcoded, d, hpartner, hne, hdone⟩ | ⟨rfl, h⟩ |
      ⟨rfl, h⟩ | ⟨rfl, h⟩
    · exact exec_of_not_ready hslot hf fun ⟨_, hlayout⟩ => by simp [hlayout] at h
    · exact exec_of_not_ready hslot hf fun ⟨_, hlayout⟩ => by simp [hlayout] at h
    · exact exec_of_not_ready hslot hf fun ⟨_, hsect⟩ => by simp [hsect] at h
    · refine exec_of_not_ready hslot hf fun ⟨_, hspec, hprev⟩ => ?_
      rcases h with h | ⟨hg, h⟩
      · simp [hspec] at h
      · exact Bool.false_ne_true (h.symm.trans (hprev hg))
    · exact exec_of_not_ready hslot hf fun ⟨_, hsf⟩ => by simp [hsf] at h
    · have hmix : ¬mixable s (slotOf c) := fun ⟨hdeq, hstereo, himdct⟩ => by simp [hdeq, hstereo, himdct] at h
      rcases hi with rfl | rfl
      · exact exec_of_not_ready (by simp [Instr.slots, hc, hc2]) hf fun ⟨_, h1, _⟩ => hmix h1
      · exact exec_of_not_ready (by simp [Instr.slots, hc, hc2]) hf fun ⟨_, _, h2⟩ => hmix h2
    · exact exec_of_not_ready hslot hf fun ⟨_, hdeq, hown⟩ => by simp [hdeq, hown] at h
    · exact exec_of_not_ready hslot hf fun ⟨_, himdct, hown⟩ => by simp [himdct, hown] at h
    · exact exec_of_not_ready hslot hf fun ⟨_, hqmfa, hown⟩ => by simp [hqmfa, hown] at h
    · exact exec_of_not_ready hslot hf fun ⟨_, haxcfg, hown⟩ => by simp [haxcfg, hown] at h
    · exact exec_of_not_ready hslot hf fun ⟨_, haxenv, hown⟩ => by simp [haxenv, hown] at h
    · exact exec_of_not_ready hslot hf fun ⟨_, haxhf, hown⟩ => by simp [haxhf, hown] at h
    · by_cases hr : ready s (.aspxgain c)
      · obtain ⟨-, haxhf, haxgain⟩ := hr
        exact exec_of_raise (i := .aspxgain c) hslot hf
          (aspxgainBody_of_partner_undone hs hmode hcoded hpartner hne hdone haxhf haxgain)
      · exact exec_of_not_ready hslot hf hr
    · exact exec_of_not_ready hslot hf fun ⟨_, haxgain, hown⟩ => by simp [haxgain, hown] at h
    · refine exec_of_not_ready hslot hf fun ⟨_, hqmfa, hown, hasm⟩ => ?_
      rcases h with h | h | ⟨hcfg, h⟩
      · simp [hqmfa] at h
      · simp [hown] at h
      · simp [hasm hcfg] at h
    · obtain ⟨hstarted, hunfinished⟩ := h
      refine exec_of_not_ready (by simp [Instr.slots]) hf fun ⟨_, hcomplete⟩ => ?_
      rcases pipelinesComplete_iff.1 (hcomplete hs.2) (slotOf c) with h | h
      · exact hstarted h
      · simp [hunfinished] at h
  · exact exec_of_not_ready hslots (by simp [State.failedFrame, ho]) (not_ready_of_closed ho hi)

end Sys2Proof.Proofs

/-! What can stop a command (93_implementation_defined.md U17; 60_exceptions.md R385). Pseudocode stops by raising a fatal
error, but for a VLC table or a list of scale-factor bands that breaks its constraint. Every function the pseudocode calls
is followed, and legal parameters are used in two of them: a read of a codeword and the groups of a layout. -/

namespace Sys2Proof.Proofs

open Sys2Proof Sys2Proof.Machine Sys2Proof.Laws Sys2Proof.Config

variable {s t u : State} {i : Instr}

/-! ### Stops that are fatal errors -/

/-- Every stop of `r` raises a fatal error. -/
def StopsFatally {α : Type} (r : Except Stop α) : Prop := r ≠ .error .illegalParameter

section
variable {α β : Type}

theorem stopsFatally_of_stopsOnlyWith {e : FatalError} {r : Except Stop α} (h : StopsOnlyWith e r) : StopsFatally r :=
  fun hr => nomatch h _ hr

theorem stopsFatally_ok (a : α) : StopsFatally (.ok a) := nofun

theorem stopsFatally_pure (a : α) : StopsFatally (pure a) := nofun

theorem stopsFatally_raise (e : FatalError) : StopsFatally (raise e : Except Stop α) := nofun

theorem stopsFatally_require (b : Bool) (e : FatalError) : StopsFatally (require b e) :=
  stopsFatally_of_stopsOnlyWith (stopsOnlyWith_require e b)

theorem stopsFatally_requireOpen : StopsFatally s.requireOpen := stopsFatally_require _ _

theorem stopsFatally_valueOf (o : Option α) : StopsFatally (valueOf o) :=
  stopsFatally_of_stopsOnlyWith (stopsOnlyWith_valueOf o)

theorem stopsFatally_bind {r : Except Stop α} {f : α → Except Stop β} (hr : StopsFatally r)
    (hf : ∀ a, StopsFatally (f a)) : StopsFatally (r >>= f) := by
  cases r with
  | error x => intro h; cases h; exact hr rfl
  | ok a => exact hf a

theorem stopsFatally_ite {p : Prop} [Decidable p] {r r' : Except Stop α} (hr : StopsFatally r) (hr' : StopsFatally r') :
    StopsFatally (if p then r else r') := by
  split
  · exact hr
  · exact hr'

theorem stopsFatally_mapE {f : α → Except Stop β} (hf : ∀ a, StopsFatally (f a)) (l : List α) :
    StopsFatally (mapE f l) := by
  induction l with
  | nil => exact stopsFatally_ok _
  | cons a l ih =>
    intro h
    simp only [mapE] at h
    split at h
    · next x hx => cases h; exact hf a hx
    · split at h
      · next x hx => cases h; exact ih hx
      · cases h

theorem stopsFatally_get {n : Nat} (t : Tab α n) (k : Nat) : StopsFatally (t.get k) := stopsFatally_valueOf _

/-! ### Reading computations -/

/-- Every stop of a reading computation raises a fatal error, wherever the cursor is. -/
def ReadsFatally (m : BitM α) : Prop := ∀ pos, StopsFatally (m pos)

theorem readsFatally_pure (a : α) : ReadsFatally (pure a : BitM α) := fun _ => stopsFatally_ok _

theorem readsFatally_stop (e : FatalError) : ReadsFatally (BitM.stop e : BitM α) := fun _ => stopsFatally_raise e

theorem readsFatally_bind {m : BitM α} {f : α → BitM β} (hm : ReadsFatally m) (hf : ∀ a, ReadsFatally (f a)) :
    ReadsFatally (m >>= f) := fun pos => stopsFatally_bind (hm pos) fun r => hf r.1 r.2

theorem readsFatally_ite {p : Prop} [Decidable p] {m m' : BitM α} (hm : ReadsFatally m) (hm' : ReadsFatally m') :
    ReadsFatally (if p then m else m') := by
  split
  · exact hm
  · exact hm'

theorem readsFatally_lift {r : Except Stop α} (h : StopsFatally r) : ReadsFatally (BitM.lift r) := by
  intro pos hpos
  cases r with
  | ok a => cases hpos
  | error x => cases hpos; exact h rfl

end

theorem readsFatally_getBit : ReadsFatally (getBit s) := fun _ =>
  stopsFatally_ite (stopsFatally_ok _) (stopsFatally_raise _)

theorem readsFatally_readBits (n : Nat) : ReadsFatally (readBits s n) := by
  have hloop (n v : Nat) : ReadsFatally (readBitsFrom s n v) := by
    induction n generalizing v with
    | zero => exact readsFatally_pure v
    | succ n ih => exact readsFatally_bind readsFatally_getBit fun _ => ih _
  exact fun pos => stopsFatally_ite (hloop n 0 pos) (stopsFatally_raise _)

theorem readsFatally_readUnary (stop : Bool) (maxLen : Nat) : ReadsFatally (readUnary s stop maxLen) := by
  have hloop (left count : Nat) : ReadsFatally (readUnaryFrom s stop left count) := by
    induction left generalizing count with
    | zero => exact readsFatally_pure count
    | succ n ih => exact readsFatally_bind readsFatally_getBit fun _ => readsFatally_ite (readsFatally_pure _) (ih _)
  exact hloop maxLen 0

theorem readsFatally_readVlcFrom (tab : List VlcEntry) (fuel bits len : Nat) :
    ReadsFatally (readVlcFrom s tab fuel bits len) := by
  induction fuel generalizing bits len with
  | zero => exact readsFatally_stop _
  | succ n ih =>
    refine readsFatally_bind readsFatally_getBit fun b => ?_
    split
    · exact readsFatally_pure _
    · exact readsFatally_ite (ih _ _) (readsFatally_stop _)

theorem readsFatally_readEsc (base max : Nat) : ReadsFatally (readEsc s base max) := by
  have hloop (fuel value : Nat) : ReadsFatally (readEscFrom s base max fuel value) := by
    induction fuel generalizing value with
    | zero => exact readsFatally_stop _
    | succ n ih =>
      exact readsFatally_bind (readsFatally_readBits _) fun _ => readsFatally_ite (readsFatally_stop _)
        (readsFatally_bind (readsFatally_readBits _) fun _ => readsFatally_ite (readsFatally_pure _)
          (readsFatally_ite (readsFatally_stop _) (ih _)))
  exact fun pos => hloop _ 0 pos

theorem readsFatally_readRun (lenBits fuel len : Nat) : ReadsFatally (readRun s lenBits fuel len) := by
  induction fuel generalizing len with
  | zero => exact readsFatally_stop _
  | succ n ih =>
    exact readsFatally_bind (readsFatally_readBits _) fun _ => readsFatally_ite (ih _) (readsFatally_pure _)

theorem readsFatally_readSections (lenBits ms fuel b : Nat) : ReadsFatally (readSections s lenBits ms fuel b) := by
  induction fuel generalizing b with
  | zero => exact readsFatally_stop _
  | succ n ih =>
    refine readsFatally_ite (readsFatally_bind (readsFatally_readBits _) fun _ => readsFatally_ite (readsFatally_stop _) ?_)
      (readsFatally_pure _)
    exact readsFatally_bind (fun pos => readsFatally_readRun _ _ _ pos) fun _ => readsFatally_ite (readsFatally_stop _)
      (readsFatally_bind (ih _) fun _ => readsFatally_pure _)

theorem readsFatally_readSigns (l : List Int) : ReadsFatally (readSigns s l) := by
  have hsign (v : Int) : ReadsFatally (readSign s v) :=
    readsFatally_ite (readsFatally_pure _) (readsFatally_bind (readsFatally_readBits _) fun _ => readsFatally_pure _)
  induction l with
  | nil => exact readsFatally_pure _
  | cons v l ih => exact readsFatally_bind (hsign v) fun _ => readsFatally_bind ih fun _ => readsFatally_pure _

theorem readsFatally_readEscapes (l : List Int) : ReadsFatally (readEscapes s l) := by
  have hescape (v : Int) : ReadsFatally (readEscape s v) :=
    readsFatally_ite
      (readsFatally_bind (readsFatally_readUnary _ _) fun _ => readsFatally_ite (readsFatally_stop _)
        (readsFatally_bind (readsFatally_readBits _) fun _ => readsFatally_pure _))
      (readsFatally_pure _)
  induction l with
  | nil => exact readsFatally_pure _
  | cons v l ih => exact readsFatally_bind (hescape v) fun _ => readsFatally_bind ih fun _ => readsFatally_pure _

section
variable (hp : parametersLegal s.cfg = true)
include hp

/-- A legal table is not refused (41_bitreader.md R197). -/
theorem readsFatally_readVlc (table : Nat) : ReadsFatally (readVlc s table) := by
  intro pos
  unfold readVlc
  split
  · exact stopsFatally_raise _
  · next tab htab =>
    rw [if_pos (vlcLegal_of_parametersLegal hp htab)]
    exact readsFatally_readVlcFrom _ _ _ _ pos

theorem readsFatally_decodeTuple (d : CbDesc) (table : Nat) : ReadsFatally (decodeTuple s d table) :=
  readsFatally_bind (readsFatally_readVlc hp table) fun _ => readsFatally_ite (readsFatally_stop _)
    (readsFatally_bind (readsFatally_ite (readsFatally_pure _) (readsFatally_readSigns _)) fun _ =>
      readsFatally_ite (readsFatally_readEscapes _) (readsFatally_pure _))

theorem readsFatally_readTuples (d : CbDesc) (table n : Nat) : ReadsFatally (readTuples s d table n) := by
  induction n with
  | zero => exact readsFatally_pure _
  | succ n ih =>
    exact readsFatally_bind (readsFatally_decodeTuple hp d table) fun _ => readsFatally_bind ih fun _ => readsFatally_pure _

theorem readsFatally_readSection (cb : Nat) (samples : List Nat) : ReadsFatally (readSection s cb samples) := by
  refine readsFatally_ite (readsFatally_pure _) ?_
  split
  · exact readsFatally_stop _
  · exact readsFatally_ite (readsFatally_stop _)
      (readsFatally_bind (readsFatally_readTuples hp _ _ _) fun _ => readsFatally_pure _)

theorem readsFatally_readAllSections (x : ChannelState) (g : Nat) (l : List (Option Nat × List Nat)) :
    ReadsFatally (readAllSections s x g l) := by
  induction l with
  | nil => exact readsFatally_pure _
  | cons e l ih =>
    exact readsFatally_bind (readsFatally_lift (stopsFatally_valueOf _)) fun _ =>
      readsFatally_bind (readsFatally_readSection hp _ _) fun _ => readsFatally_bind ih fun _ => readsFatally_pure _

theorem readsFatally_readSf (a : SfAcc) : ReadsFatally (readSf s a) :=
  readsFatally_bind
    (readsFatally_ite (readsFatally_bind (readsFatally_readBits _) fun _ => readsFatally_pure _)
      (readsFatally_bind (readsFatally_readVlc hp _) fun _ => readsFatally_pure _))
    fun _ => readsFatally_ite (readsFatally_stop _) (readsFatally_pure _)

theorem readsFatally_readSfs (f : ChanFrame) (g : Nat) (snfp : Bool) (l : List Nat) (a : SfAcc) :
    ReadsFatally (readSfs s f g snfp l a) := by
  induction l generalizing a with
  | nil => exact readsFatally_pure _
  | cons b l ih =>
    exact readsFatally_bind (readsFatally_lift (stopsFatally_of_stopsOnlyWith explicitSf_stopsOnlyWith)) fun _ =>
      readsFatally_ite
        (readsFatally_bind (readsFatally_readSf hp a) fun _ => readsFatally_bind (ih _) fun _ => readsFatally_pure _)
        (readsFatally_ite
          (readsFatally_bind (readsFatally_readVlc hp _) fun _ => readsFatally_bind (ih _) fun _ => readsFatally_pure _)
          (readsFatally_bind (ih _) fun _ => readsFatally_pure _))

end

/-! ### The pseudocode of each command -/

theorem mem_flbTable_of_tlen {flb n : Nat} (h : n ∈ tlenTable flb) : flb ∈ flbTable := by
  unfold tlenTable at h
  split at h
  case h_10 => cases h
  all_goals decide

/-- With legal parameters every SFB_OFFSETS list a frame can use is legal. -/
theorem offsetsLegal_of_parametersLegal (hp : parametersLegal s.cfg = true) : offsetsLegal s := by
  simp only [parametersLegal, Bool.and_eq_true, List.all_eq_true] at hp
  obtain ⟨-, hsfb⟩ := hp
  exact fun n hn => hsfb _ (mem_flbTable_of_tlen hn) n hn

theorem stopsFatally_requireGroup (c : Fin 8) (g : Nat) (l : List Stage) : StopsFatally (s.requireGroup c g l) :=
  stopsFatally_bind stopsFatally_requireOpen fun _ => stopsFatally_bind (stopsFatally_require _ _) fun _ =>
    stopsFatally_require _ _

theorem stopsFatally_requireSlots : StopsFatally s.requireSlots := by
  unfold State.requireSlots
  split
  · exact stopsFatally_ok _
  · exact stopsFatally_raise _

theorem stopsFatally_chresetBody (c : Fin 8) : StopsFatally (chresetBody c s) :=
  stopsFatally_ite (stopsFatally_ok _) (stopsFatally_ok _)

theorem stopsFatally_setlayoutBody (hp : parametersLegal s.cfg = true) (c : Fin 8) : StopsFatally (setlayoutBody c s) :=
  stopsFatally_bind stopsFatally_requireOpen fun _ => stopsFatally_bind (stopsFatally_require _ _) fun _ =>
    stopsFatally_bind
      (stopsFatally_of_stopsOnlyWith (layoutGroups_stopsOnlyWith (offsetsLegal_of_parametersLegal hp) _ _ _)) fun _ =>
      stopsFatally_pure _

theorem stopsFatally_readCommand {ok : Bool} {m : State → BitM Nat} (hm : ReadsFatally (m s)) :
    StopsFatally (readCommand ok m s) :=
  stopsFatally_bind stopsFatally_requireOpen fun _ => stopsFatally_bind (stopsFatally_require _ _) fun _ =>
    stopsFatally_bind (hm _) fun _ => stopsFatally_pure _

theorem stopsFatally_sectBody (c : Fin 8) (g : Fin 16) (n : Nat) : StopsFatally (sectBody c g n s) :=
  stopsFatally_bind (stopsFatally_requireGroup _ _ _) fun _ => stopsFatally_bind (stopsFatally_require _ _) fun _ =>
    stopsFatally_bind (readsFatally_readSections _ _ _ _ _) fun _ => stopsFatally_pure _

theorem stopsFatally_specBody (hp : parametersLegal s.cfg = true) (c : Fin 8) (g : Fin 16) :
    StopsFatally (specBody c g s) :=
  stopsFatally_bind (stopsFatally_requireGroup _ _ _) fun _ =>
    stopsFatally_bind (readsFatally_readAllSections hp _ _ _ _) fun _ =>
      stopsFatally_bind
        (stopsFatally_mapE (fun _ => stopsFatally_bind (stopsFatally_mapE (stopsFatally_get _) _) fun _ =>
          stopsFatally_pure _) _)
        fun _ => stopsFatally_pure _

theorem stopsFatally_sfBody (hp : parametersLegal s.cfg = true) (c : Fin 8) (g : Fin 16) (snfp : Bool) :
    StopsFatally (sfBody c g snfp s) :=
  stopsFatally_bind (stopsFatally_requireGroup _ _ _) fun _ =>
    stopsFatally_bind
      (stopsFatally_ite (stopsFatally_ok _) (stopsFatally_bind (stopsFatally_valueOf _) fun _ =>
        stopsFatally_bind (stopsFatally_valueOf _) fun _ => stopsFatally_bind (stopsFatally_valueOf _) fun _ =>
          stopsFatally_pure _))
      fun _ => stopsFatally_bind (readsFatally_readSfs hp _ _ _ _ _ _) fun _ => stopsFatally_pure _

theorem stopsFatally_arithBody (c : Fin 8) (g : Fin 16) : StopsFatally (arithBody c g s) :=
  stopsFatally_bind (stopsFatally_requireGroup _ _ _) fun _ => stopsFatally_bind (stopsFatally_require _ _) fun _ =>
    stopsFatally_pure _

theorem stopsFatally_coefOf (x : ChannelState) (f : ChanFrame) (k : Nat) : StopsFatally (coefOf x f k) := by
  unfold coefOf
  split
  · exact stopsFatally_ok _
  · refine stopsFatally_bind (stopsFatally_get _ _) fun sf => ?_
    split
    · exact stopsFatally_pure _
    · exact stopsFatally_bind (stopsFatally_get _ _) fun _ => stopsFatally_pure _

theorem stopsFatally_deqBody (c : Fin 8) (g : Fin 16) : StopsFatally (deqBody c g s) :=
  stopsFatally_bind (stopsFatally_requireGroup _ _ _) fun _ =>
    stopsFatally_bind (stopsFatally_mapE (stopsFatally_coefOf _ _) _) fun _ => stopsFatally_pure _

theorem stopsFatally_stereoSelect (c : Fin 8) (mode : Int) (g b : Nat) (acc : Int) :
    StopsFatally (stereoSelect s c mode g b acc) := by
  have hms (v : Int) : StopsFatally (msSelect v) :=
    stopsFatally_ite (stopsFatally_ok _) (stopsFatally_ite (stopsFatally_ok _) (stopsFatally_raise _))
  exact stopsFatally_ite (stopsFatally_ok _) (stopsFatally_ite (stopsFatally_ok _)
    (stopsFatally_ite (stopsFatally_bind (hms _) fun _ => stopsFatally_pure _)
      (stopsFatally_bind (stopsFatally_require _ _) fun _ => stopsFatally_pure _)))

theorem stopsFatally_stereoBand (f f2 : ChanFrame) (sel : Option Real32) (samples : List Nat) :
    StopsFatally (stereoBand f f2 sel samples) := by
  unfold stereoBand
  split
  · exact stopsFatally_ok _
  · exact stopsFatally_mapE (fun _ => stopsFatally_bind (stopsFatally_get _ _) fun _ =>
      stopsFatally_bind (stopsFatally_get _ _) fun _ => stopsFatally_pure _) _

theorem stopsFatally_stereoBands (c c2 : Fin 8) (mode : Int) (g : Nat) (l : List Nat) (acc : Int) :
    StopsFatally (stereoBands s c c2 mode g l acc) := by
  induction l generalizing acc with
  | nil => exact stopsFatally_ok _
  | cons b l ih =>
    exact stopsFatally_bind (stopsFatally_stereoSelect _ _ _ _ _) fun _ =>
      stopsFatally_bind (stopsFatally_stereoBand _ _ _ _) fun _ => stopsFatally_bind (ih _) fun _ => stopsFatally_pure _

theorem stopsFatally_stereoGroups (c c2 : Fin 8) (mode : Int) (l : List Nat) (acc : Int) :
    StopsFatally (stereoGroups s c c2 mode l acc) := by
  induction l generalizing acc with
  | nil => exact stopsFatally_ok _
  | cons g l ih =>
    exact stopsFatally_bind (stopsFatally_stereoBands _ _ _ _ _ _) fun _ =>
      stopsFatally_bind (ih _) fun _ => stopsFatally_pure _

theorem stopsFatally_stereoBody (c c2 : Fin 8) : StopsFatally (stereoBody c c2 s) :=
  stopsFatally_bind stopsFatally_requireOpen fun _ => stopsFatally_bind (stopsFatally_require _ _) fun _ =>
    stopsFatally_bind (stopsFatally_of_stopsOnlyWith stopsOnlyWith_requireStereo) fun _ =>
      stopsFatally_bind (stopsFatally_of_stopsOnlyWith stopsOnlyWith_requireStereo) fun _ =>
        stopsFatally_bind (stopsFatally_require _ _) fun _ => stopsFatally_bind (stopsFatally_require _ _) fun _ =>
          stopsFatally_bind (stopsFatally_stereoGroups _ _ _ _ _) fun _ => stopsFatally_pure _

theorem stopsFatally_imdctWindows (flb base : Nat) (coef : Tab Real32 2048) (l : List Window)
    (r : ChannelState × Memory Word) : StopsFatally (imdctWindows flb base coef l r) := by
  induction l generalizing r with
  | nil => exact stopsFatally_ok _
  | cons w l ih => exact stopsFatally_bind (stopsFatally_mapE (stopsFatally_get _) _) fun _ => ih _

theorem stopsFatally_imdctBody (c : Fin 8) : StopsFatally (imdctBody c s) :=
  stopsFatally_bind
    (stopsFatally_bind stopsFatally_requireOpen fun _ => stopsFatally_bind (stopsFatally_require _ _) fun _ =>
      stopsFatally_bind (stopsFatally_require _ _) fun _ => stopsFatally_require _ _)
    fun _ => stopsFatally_bind (stopsFatally_imdctWindows _ _ _ _ _) fun _ => stopsFatally_pure _

theorem stopsFatally_qmfaBody (c : Fin 8) : StopsFatally (qmfaBody c s) :=
  stopsFatally_bind
    (stopsFatally_bind stopsFatally_requireOpen fun _ => stopsFatally_bind (stopsFatally_require _ _) fun _ =>
      stopsFatally_requireSlots)
    fun _ => stopsFatally_bind (stopsFatally_mapE (fun _ => stopsFatally_mapE (fun _ => stopsFatally_valueOf _) _) _)
      fun _ => stopsFatally_pure _

theorem stopsFatally_qmfsBody (c : Fin 8) : StopsFatally (qmfsBody c s) :=
  stopsFatally_bind
    (stopsFatally_bind stopsFatally_requireOpen fun _ => stopsFatally_bind (stopsFatally_require _ _) fun _ =>
      stopsFatally_bind (stopsFatally_require _ _) fun _ => stopsFatally_requireSlots)
    fun _ => stopsFatally_pure _

theorem stopsFatally_aspxcfgBody (c : Fin 8) : StopsFatally (aspxcfgBody c s) :=
  stopsFatally_bind stopsFatally_requireOpen fun _ => stopsFatally_bind (stopsFatally_require _ _) fun _ =>
    stopsFatally_bind
      (stopsFatally_ite
        (stopsFatally_bind (stopsFatally_of_stopsOnlyWith (buildTables_stopsOnlyWith _ _ _ _)) fun _ =>
          stopsFatally_pure _)
        (stopsFatally_ok _))
      fun _ => stopsFatally_pure _

theorem stopsFatally_decodeSignal (c : Fin 8) (a : Int) (n l : Nat) (prev : Nat → Option Int) (rp : Bool) :
    StopsFatally (decodeSignal s c a n l prev rp) := by
  have henvelope (l : Nat) (prev : Nat → Option Int) (rp : Bool) : StopsFatally (signalEnvelope s c l prev rp) :=
    stopsFatally_ite (stopsFatally_ok _)
      (stopsFatally_mapE (fun _ => stopsFatally_bind (stopsFatally_valueOf _) fun _ => stopsFatally_pure _) _)
  induction n generalizing l prev rp with
  | zero => exact stopsFatally_ok _
  | succ n ih =>
    exact stopsFatally_bind (henvelope _ _ _) fun _ => stopsFatally_bind (stopsFatally_require _ _) fun _ =>
      stopsFatally_bind (ih _ _ _) fun _ => stopsFatally_pure _

theorem stopsFatally_decodeNoise (c : Fin 8) (nq n q : Nat) (prev : Nat → Option Int) :
    StopsFatally (decodeNoise s c nq n q prev) := by
  have henvelope (q : Nat) (prev : Nat → Option Int) : StopsFatally (noiseEnvelope s c nq q prev) :=
    stopsFatally_ite (stopsFatally_ok _)
      (stopsFatally_mapE (fun _ => stopsFatally_bind (stopsFatally_valueOf _) fun _ => stopsFatally_pure _) _)
  induction n generalizing q prev with
  | zero => exact stopsFatally_ok _
  | succ n ih =>
    exact stopsFatally_bind (henvelope _ _) fun _ => stopsFatally_bind (stopsFatally_require _ _) fun _ =>
      stopsFatally_bind (ih _ _) fun _ => stopsFatally_pure _

theorem stopsFatally_aspxenvBody (c : Fin 8) : StopsFatally (aspxenvBody c s) :=
  stopsFatally_bind stopsFatally_requireOpen fun _ => stopsFatally_bind (stopsFatally_require _ _) fun _ =>
    stopsFatally_bind (stopsFatally_of_stopsOnlyWith qDiv_stopsOnlyWith) fun _ =>
      stopsFatally_bind (stopsFatally_require _ _) fun _ => stopsFatally_bind (stopsFatally_require _ _) fun _ =>
        stopsFatally_bind (stopsFatally_require _ _) fun _ =>
          stopsFatally_bind (stopsFatally_decodeSignal _ _ _ _ _ _) fun _ =>
            stopsFatally_bind (stopsFatally_decodeNoise _ _ _ _ _) fun _ => stopsFatally_pure _

theorem stopsFatally_lowBand (hist : Nat) (qlow : List Slot) (k : Int) (p : Nat) :
    StopsFatally (lowBand hist qlow k p) :=
  stopsFatally_ite (stopsFatally_valueOf _) (stopsFatally_raise _)

theorem stopsFatally_predictor (p : Params) (qlow : List Slot) (numTs sb : Nat) :
    StopsFatally (predictor p qlow numTs sb) := by
  have hcov (j k : Nat) : StopsFatally (covariance p qlow numTs sb j k) :=
    stopsFatally_bind
      (stopsFatally_mapE (fun _ => stopsFatally_bind (stopsFatally_lowBand _ _ _ _) fun _ =>
        stopsFatally_bind (stopsFatally_lowBand _ _ _ _) fun _ => stopsFatally_pure _) _)
      fun _ => stopsFatally_pure _
  exact stopsFatally_bind (hcov _ _) fun _ => stopsFatally_bind (hcov _ _) fun _ => stopsFatally_bind (hcov _ _) fun _ =>
    stopsFatally_bind (hcov _ _) fun _ => stopsFatally_bind (hcov _ _) fun _ => stopsFatally_pure _

theorem stopsFatally_hfColumn (p : Params) (qlow : List Slot) (numTs : Nat) (alphas : List (Cplx × Cplx))
    (noise : List Nat) (bw : List Real32) (src k : Nat) :
    StopsFatally (hfColumn p qlow numTs alphas noise bw src k) := by
  have hsample (alpha : Cplx × Cplx) (b : Real32) (ts : Nat) : StopsFatally (hfSample p qlow alpha src b ts) :=
    stopsFatally_bind (stopsFatally_lowBand _ _ _ _) fun _ => stopsFatally_bind (stopsFatally_lowBand _ _ _ _) fun _ =>
      stopsFatally_bind (stopsFatally_lowBand _ _ _ _) fun _ => stopsFatally_pure _
  exact stopsFatally_bind (stopsFatally_valueOf _) fun _ => stopsFatally_bind (stopsFatally_valueOf _) fun _ =>
    stopsFatally_bind (stopsFatally_valueOf _) fun _ =>
      stopsFatally_mapE (fun _ => stopsFatally_bind (hsample _ _ _) fun _ => stopsFatally_pure _) _

theorem stopsFatally_aspxhfBody (c : Fin 8) : StopsFatally (aspxhfBody c s) :=
  stopsFatally_bind stopsFatally_requireOpen fun _ => stopsFatally_bind (stopsFatally_require _ _) fun _ =>
    stopsFatally_bind (stopsFatally_mapE (fun _ => stopsFatally_of_stopsOnlyWith (invfMode_stopsOnlyWith _)) _) fun _ =>
      stopsFatally_bind (stopsFatally_valueOf _) fun _ => stopsFatally_bind (stopsFatally_valueOf _) fun _ =>
        stopsFatally_bind (stopsFatally_mapE (stopsFatally_predictor _ _ _) _) fun _ =>
          stopsFatally_bind (stopsFatally_mapE (fun _ => stopsFatally_hfColumn _ _ _ _ _ _ _ _) _) fun _ =>
            stopsFatally_pure _

theorem stopsFatally_balanceSetup (c : Fin 8) (a : Int) : StopsFatally (balanceSetup s c a) := by
  unfold balanceSetup
  refine stopsFatally_ite (stopsFatally_pure _) (stopsFatally_bind (stopsFatally_require _ _) fun _ => ?_)
  dsimp only
  split
  · exact stopsFatally_bind (stopsFatally_require _ _) fun _ => stopsFatally_bind (stopsFatally_require _ _) fun _ =>
      stopsFatally_of_stopsOnlyWith partnerChecks_stopsOnlyWith
  · exact stopsFatally_raise _

theorem stopsFatally_dequantEnv (c : Fin 8) (pair : Option (Fin 8)) (a : Int) (l j q k : Nat) :
    StopsFatally (dequantEnv s c pair a l j q k) := by
  unfold dequantEnv
  dsimp only
  split
  · exact stopsFatally_bind (stopsFatally_get _ _) fun _ => stopsFatally_bind (stopsFatally_get _ _) fun _ =>
      stopsFatally_pure _
  · exact stopsFatally_bind (stopsFatally_get _ _) fun _ => stopsFatally_bind (stopsFatally_get _ _) fun _ =>
      stopsFatally_bind (stopsFatally_get _ _) fun _ => stopsFatally_bind (stopsFatally_get _ _) fun _ =>
        stopsFatally_pure _

theorem stopsFatally_energyEstimate (c : Fin 8) (l m : Nat) : StopsFatally (energyEstimate s c l m) :=
  stopsFatally_bind (stopsFatally_require _ _) fun _ =>
    stopsFatally_bind
      (stopsFatally_mapE (fun _ => stopsFatally_bind (stopsFatally_get _ _) fun _ => stopsFatally_pure _) _)
      fun _ => stopsFatally_pure _

theorem stopsFatally_gainEnvelope (c : Fin 8) (pair : Option (Fin 8)) (a : Int) (tones : Vector Bool 64) (l : Nat) :
    StopsFatally (gainEnvelope s c pair a tones l) := by
  have hresolution : StopsFatally (s.resolution c l) :=
    stopsFatally_ite (stopsFatally_ok _) (stopsFatally_ite (stopsFatally_ok _) (stopsFatally_raise _))
  have hband (m : Nat) : StopsFatally (bandOfEnv s c pair a tones l m) :=
    stopsFatally_bind hresolution fun _ => stopsFatally_bind (stopsFatally_valueOf _) fun _ =>
      stopsFatally_bind (stopsFatally_valueOf _) fun _ => stopsFatally_bind (stopsFatally_valueOf _) fun _ =>
        stopsFatally_bind (stopsFatally_dequantEnv _ _ _ _ _ _ _) fun _ =>
          stopsFatally_bind (stopsFatally_energyEstimate _ _ _) fun _ => stopsFatally_pure _
  exact stopsFatally_bind (stopsFatally_mapE hband _) fun _ => stopsFatally_pure _

theorem stopsFatally_aspxgainBody (c : Fin 8) : StopsFatally (aspxgainBody c s) :=
  stopsFatally_bind stopsFatally_requireOpen fun _ => stopsFatally_bind (stopsFatally_require _ _) fun _ =>
    stopsFatally_bind (stopsFatally_of_stopsOnlyWith qDiv_stopsOnlyWith) fun _ =>
      stopsFatally_bind (stopsFatally_balanceSetup _ _) fun _ =>
        stopsFatally_bind (stopsFatally_bind (stopsFatally_require _ _) fun _ => stopsFatally_pure _) fun _ =>
          stopsFatally_bind (stopsFatally_mapE (stopsFatally_gainEnvelope _ _ _ _) _) fun _ => stopsFatally_pure _

theorem stopsFatally_assembleSlots (c : Fin 8) (l : List Nat) (r : ChannelState × Memory Word) :
    StopsFatally (assembleSlots s c l r) := by
  have hassembled (p : Params) (x : ChannelState) (f : ChanFrame) (l ts m : Nat) :
      StopsFatally (assembled p x f l ts m) :=
    stopsFatally_bind (stopsFatally_get _ _) fun _ => stopsFatally_bind (stopsFatally_get _ _) fun _ =>
      stopsFatally_bind (stopsFatally_get _ _) fun _ => stopsFatally_bind (stopsFatally_get _ _) fun _ =>
        stopsFatally_pure _
  induction l generalizing r with
  | nil => exact stopsFatally_ok _
  | cons ts l ih =>
    exact stopsFatally_bind
      (stopsFatally_bind (stopsFatally_valueOf _) fun _ =>
        stopsFatally_bind
          (stopsFatally_mapE (fun _ => stopsFatally_bind (hassembled _ _ _ _ _ _) fun _ => stopsFatally_pure _) _)
          fun _ => stopsFatally_pure _)
      fun _ => ih _

theorem stopsFatally_aspxasmBody (c : Fin 8) : StopsFatally (aspxasmBody c s) :=
  stopsFatally_bind
    (stopsFatally_bind stopsFatally_requireOpen fun _ => stopsFatally_bind (stopsFatally_require _ _) fun _ =>
      stopsFatally_valueOf _)
    fun _ => stopsFatally_bind (stopsFatally_assembleSlots _ _ _) fun _ => stopsFatally_pure _

/-! ### Refusals -/

/-- The commands that use a parameter they can refuse (93_implementation_defined.md U17). -/
def refusable : Instr → Bool
  | .setlayout _ | .rdvlc _ | .spec _ _ | .sf _ _ _ => true
  | _ => false

theorem pseudocode_stopsFatally (h : parametersLegal s.cfg = true ∨ refusable i = false) :
    StopsFatally (pseudocode i s) := by
  have hp (hi : refusable i = true) : parametersLegal s.cfg = true := h.resolve_right (by simp [hi])
  unfold pseudocode
  cases i with
  | nop => exact stopsFatally_ok _
  | chreset => exact stopsFatally_chresetBody _
  | fbegin => exact stopsFatally_of_stopsOnlyWith fbeginBody_stopsOnlyWith
  | fcommit => exact stopsFatally_of_stopsOnlyWith fcommitBody_stopsOnlyWith
  | fabort => exact stopsFatally_of_stopsOnlyWith fabortBody_stopsOnlyWith
  | setlayout => exact stopsFatally_setlayoutBody (hp rfl) _
  | rdbits => exact stopsFatally_readCommand (readsFatally_readBits _)
  | rdunary => exact stopsFatally_readCommand (readsFatally_readUnary _ _)
  | rdvlc => exact stopsFatally_readCommand (readsFatally_readVlc (hp rfl) _)
  | rdesc => exact stopsFatally_readCommand (readsFatally_readEsc _ _)
  | sect => exact stopsFatally_sectBody _ _ _
  | spec => exact stopsFatally_specBody (hp rfl) _ _
  | sf => exact stopsFatally_sfBody (hp rfl) _ _ _
  | arith => exact stopsFatally_arithBody _ _
  | deq => exact stopsFatally_deqBody _ _
  | stereo => exact stopsFatally_stereoBody _ _
  | imdct => exact stopsFatally_imdctBody _
  | qmfa => exact stopsFatally_qmfaBody _
  | qmfs => exact stopsFatally_qmfsBody _
  | aspxcfg => exact stopsFatally_aspxcfgBody _
  | aspxenv => exact stopsFatally_aspxenvBody _
  | aspxhf => exact stopsFatally_aspxhfBody _
  | aspxgain => exact stopsFatally_aspxgainBody _
  | aspxasm => exact stopsFatally_aspxasmBody _

theorem outcome_stopsFatally (h : parametersLegal s.cfg = true ∨ refusable i = false) : StopsFatally (outcome i s) :=
  stopsFatally_ite (stopsFatally_ite (stopsFatally_ok _) (pseudocode_stopsFatally h)) (stopsFatally_raise _)

/-- What stops with fatal errors alone ends in a next state. -/
theorem finish_of_stopsFatally {r : Except Stop State} (hr : StopsFatally r) : ∃ t, s.finish r = .next t := by
  cases r with
  | ok u => exact ⟨_, rfl⟩
  | error x =>
    cases x with
    | fatal e => exact ⟨_, rfl⟩
    | illegalParameter => exact absurd rfl hr

/-- Settles O9: a command is refused only where its outcome is an illegal parameter, which legal parameters exclude, and
which only four commands can meet. -/
theorem onlyIllegalParametersStop : Obligations.OnlyIllegalParametersStop := by
  intro i s
  simp only [exec_eq_finish_outcome]
  refine ⟨fun hp => finish_of_stopsFatally (outcome_stopsFatally (.inl hp)), fun _ => finish_no_fault, fun r hr => ?_⟩
  obtain ⟨hstop, rfl⟩ := finish_refused.1 hr
  refine ⟨rfl, ?_⟩
  cases hi : refusable i with
  | false => exact absurd hstop (outcome_stopsFatally (.inr hi))
  | true =>
    cases i with
    | setlayout | rdvlc | spec | sf => rfl
    | _ => cases hi

end Sys2Proof.Proofs

/-! The host's side of errors and resets: the interrupt line (60_exceptions.md R388), the accesses that have no step
(70_reset_and_hazards.md R431), the block reset and power-on (R420). -/

namespace Sys2Proof.Proofs

open Sys2Proof Sys2Proof.Machine Sys2Proof.Laws Sys2Proof.Config

variable {s t : State} {a : HostAccess} {q : List HostAccess}

/-! ### The interrupt line -/

/-- The lowest bit of a word behind whose fields the bit `b` was appended. -/
theorem appended_bit_zero {n : Nat} (w : BitVec n) (b : Bool) : (w ++ BitVec.ofBool b).getLsbD 0 = b := by
  rw [BitVec.getLsbD_append, if_pos Nat.one_pos, BitVec.getLsbD_ofBool]
  rfl

/-- The other bits of such a word are those of the fields before it. -/
theorem appended_bit_succ {n k : Nat} (w : BitVec n) (b : BitVec 1) : (w ++ b).getLsbD (k + 1) = w.getLsbD k := by
  rw [BitVec.getLsbD_append, if_neg (by omega), Nat.add_sub_cancel]

section
variable (x : Status)

theorem toWord_done : x.toWord.getLsbD 3 = x.done := by
  rw [Status.toWord]
  repeat rw [appended_bit_succ]
  exact appended_bit_zero _ _

theorem toWord_err : x.toWord.getLsbD 4 = x.err := by
  rw [Status.toWord]
  repeat rw [appended_bit_succ]
  exact appended_bit_zero _ _

theorem toWord_warn : x.toWord.getLsbD 5 = x.warn := by
  rw [Status.toWord]
  repeat rw [appended_bit_succ]
  exact appended_bit_zero _ _

theorem toWord_gap : x.toWord.getLsbD 6 = x.gap := by
  rw [Status.toWord]
  repeat rw [appended_bit_succ]
  exact appended_bit_zero _ _

theorem toWord_herr : x.toWord.getLsbD 7 = x.herr := by
  rw [Status.toWord]
  repeat rw [appended_bit_succ]
  exact appended_bit_zero _ _

end

section
variable (x : Ctrl)

theorem toWord_ieDone : x.toWord.getLsbD 1 = x.ieDone := by
  rw [Ctrl.toWord]
  repeat rw [appended_bit_succ]
  exact appended_bit_zero _ _

theorem toWord_ieErr : x.toWord.getLsbD 2 = x.ieErr := by
  rw [Ctrl.toWord]
  repeat rw [appended_bit_succ]
  exact appended_bit_zero _ _

theorem toWord_ieWarn : x.toWord.getLsbD 3 = x.ieWarn := by
  rw [Ctrl.toWord]
  repeat rw [appended_bit_succ]
  exact appended_bit_zero _ _

theorem toWord_ieHerr : x.toWord.getLsbD 4 = x.ieHerr := by
  rw [Ctrl.toWord]
  repeat rw [appended_bit_succ]
  exact appended_bit_zero _ _

end

/-- Settles O11: each flag and each enable bit is read at its bit. -/
theorem interruptLine : Obligations.InterruptLine := by
  intro s
  rw [toWord_done, toWord_err, toWord_warn, toWord_gap, toWord_herr, toWord_ieDone, toWord_ieErr, toWord_ieWarn,
    toWord_ieHerr]
  rfl

/-! ### Accesses without a step -/

/-- While BUSY = 1 an access that does not wait is the next step (70_reset_and_hazards.md R431). -/
theorem step_of_impatient (hb : s.status.busy = true) (hw : a.whileBusy = true) (hq : s.hostQ = a :: q) :
    step s = { s with hostQ := q }.busyAccess a := by
  simp [step, State.advance, hq, hb, hw]

theorem whole_eq_true (hsize : a.size = 4) (halign : a.offset % 4 = 0) : a.whole = true := by
  simp [HostAccess.whole, hsize, halign]

theorem whole_eq_false (h : a.size ≠ 4 ∨ a.offset % 4 ≠ 0) : a.whole = false := by
  rw [HostAccess.whole, Bool.and_eq_false_iff, decide_eq_false_iff_not, decide_eq_false_iff_not]
  exact h

theorem access_of_not_whole (h : a.whole = false) : s.access a = .fault .hostAccessNotAWord := by
  rw [State.access, h]
  rfl

theorem busyAccess_of_not_whole (h : a.whole = false) : s.busyAccess a = .fault .hostAccessNotAWord := by
  rw [State.busyAccess, h]
  rfl

theorem busyAccess_readStatus (h : a.whole = true) (ho : a.offset = 0x08) (hr : a.write = none) :
    s.busyAccess a = .next { s with rdata := s.status.toWord } := by
  rw [State.busyAccess, h, ho, hr]
  rfl

theorem busyAccess_writeCtrl {v : Word} (h : a.whole = true) (ho : a.offset = 0x04) (hwr : a.write = some v) :
    s.busyAccess a = if v.getLsbD 0 then .next s.abandon else .next (s.writeCtrl v) := by
  rw [State.busyAccess, h, ho, hwr]
  rfl

theorem busyAccess_of_other (h : a.whole = true) (hr : ¬(a.offset = 0x08 ∧ a.write = none))
    (hwr : ¬(a.offset = 0x04 ∧ a.write.isSome = true)) : s.busyAccess a = .fault .hostAccessWhileBusy := by
  rw [State.busyAccess, if_pos h]
  split
  · next ho hn => exact absurd ⟨ho, hn⟩ hr
  · next ho hn => exact absurd ⟨ho, by simp [hn]⟩ hwr
  · rfl

theorem writeCtrl_enables {v : Word} (h : v.getLsbD 0 = false) :
    s.writeCtrl v = { s with ctrl := ⟨v.getLsbD 1, v.getLsbD 2, v.getLsbD 3, v.getLsbD 4⟩ } := by
  rw [State.writeCtrl, h]
  rfl

/-- Settles O27: the whole-word check comes first in every access, and behind it an access while BUSY = 1 is one of
two. -/
theorem hostDuties : Obligations.HostDuties := by
  refine fun s a q hq => ⟨fun hstep hbad => ?_, fun hb hw hsize halign => ?_⟩
  · have hwhole := whole_eq_false hbad
    cases hb : s.status.busy with
    | false => rw [step_of_idle hb hq, access_of_not_whole hwhole]
    | true => rw [step_of_impatient hb (hstep.resolve_left (by simp [hb])) hq, busyAccess_of_not_whole hwhole]
  · have hwhole := whole_eq_true hsize halign
    rw [step_of_impatient hb hw hq]
    refine ⟨fun ho hr => busyAccess_readStatus hwhole ho hr, fun v ho hwr hv => ?_, busyAccess_of_other hwhole⟩
    rw [busyAccess_writeCtrl hwhole ho hwr, hv, writeCtrl_enables hv]
    rfl

/-! ### Reset values -/

theorem get_replicate {α : Type} {n : Nat} (x : α) (c : Fin n) : (Vector.replicate n x).get c = x := by
  simp [Vector.get_eq_getElem]

theorem powerOn_wAt (p : Params) (c : Fin 8) : (State.powerOn p).wAt c = ChannelState.reset p := get_replicate _ c

theorem powerOn_kAt (p : Params) (c : Fin 8) : (State.powerOn p).kAt c = ChannelState.reset p := get_replicate _ c

theorem powerOn_chanAt (p : Params) (c : Fin 8) : (State.powerOn p).chanAt c = ChanFrame.empty := get_replicate _ c

theorem ctrl_zero_toWord : Ctrl.zero.toWord = 0 := by decide

theorem status_zero_toWord : Status.zero.toWord = 0 := by decide

theorem powerOn_atResetValues (p : Params) : atResetValues (State.powerOn p) := by
  refine ⟨ctrl_zero_toWord, status_zero_toWord, rfl, rfl, rfl, rfl, rfl, rfl, rfl, rfl, rfl, fun c => ?_, rfl, rfl, rfl, rfl,
    powerOn_chanAt p, rfl⟩
  rw [powerOn_wAt, powerOn_kAt]
  exact ⟨reset_atReset p, reset_atReset p⟩

/-- A block reset leaves the registers and the records as power-on does (70_reset_and_hazards.md R420). -/
theorem blockReset_atResetValues (s : State) : atResetValues s.blockReset := powerOn_atResetValues s.cfg

/-- Settles O32: the step is the block reset, which takes all but the memories from the power-on state. -/
theorem blockReset : Obligations.BlockReset := by
  refine ⟨fun s v b q hb hq hv => ?_, powerOn_atResetValues _, fun _ => ⟨rfl, rfl, rfl, rfl, rfl⟩⟩
  have hstep : step s = .next { s with hostQ := q }.blockReset := by
    rw [step_of_idle hb hq]
    simp [State.access, HostAccess.whole, State.writeRegister, State.writeCtrl, hv]
  exact ⟨_, hstep, blockReset_atResetValues _, rfl, rfl, rfl, rfl, rfl, rfl, rfl⟩

/-! ### The reset state meets every invariant -/

theorem reset_legal (p : Params) : (ChannelState.reset p).legal p := by
  refine ⟨by simp [ChannelState.reset], fun g => ?_, nofun, List.length_replicate, le_rfl, Nat.zero_le _, Nat.zero_le _⟩
  rw [show (ChannelState.reset p).maxSfb.get g = 0 from get_replicate _ g]
  exact Nat.zero_le _

theorem reset_tablesLegal (p : Params) : (ChannelState.reset p).tablesLegal := nofun

theorem powerOn_canonical (p : Params) : (State.powerOn p).canonical = true :=
  canonical_iff.2 ⟨wf_empty _, wf_empty _, wf_empty _, wf_empty _, wf_empty _⟩

theorem powerOn_frameLegal (p : Params) : (State.powerOn p).frameLegal := ⟨rfl, powerOn_chanAt p⟩

theorem powerOn_channelsLegal (p : Params) : (State.powerOn p).channelsLegal := by
  intro c
  rw [powerOn_wAt, powerOn_kAt]
  exact ⟨reset_legal p, reset_legal p⟩

theorem powerOn_tablesLegal (p : Params) : (State.powerOn p).tablesLegal := by
  intro c
  rw [powerOn_wAt, powerOn_kAt]
  exact ⟨reset_tablesLegal p, reset_tablesLegal p⟩

/-- Settles O25: invariant by invariant, with any parameters. -/
theorem resetMeetsInvariants : Obligations.ResetMeetsInvariants := by
  obtain ⟨hstatus, hregisters⟩ := flagsLegal_iff.1 (flagsLegal_powerOn Config.params)
  exact ⟨powerOn_canonical _, le_rfl, hstatus, hregisters, powerOn_frameLegal _, powerOn_channelsLegal _,
    powerOn_tablesLegal _⟩

end Sys2Proof.Proofs

/-! A block reset while a command executes (70_reset_and_hazards.md R421). What an abandoned command may have written, one
memory space at a time: which commands lose elements of the space, and which elements. -/

namespace Sys2Proof.Proofs

open Sys2Proof Sys2Proof.Machine Sys2Proof.Laws Sys2Proof.Config

variable {s t : State} {i : Instr} {e : Nat}

/-! ### Lost elements -/

/-- Only the elements that are forgotten can read differently. -/
theorem mem_of_read_forget_ne {any : Nat → Nat → Word} {m : Memory Word} {space epoch : Nat} {idx : List Nat}
    (h : (forget m space epoch idx).read any e ≠ m.read any e) : e ∈ idx := by
  by_contra hmem
  refine h (read_setAll_other any m _ e fun x hx hxe => hmem ?_)
  obtain ⟨k, hk, rfl⟩ := List.mem_map.1 hx
  exact hxe ▸ hk

theorem pastChecks_eq_some {α : Type} {c : BitVec 4} {checks : Except Stop α} {a : α}
    (h : s.pastChecks c checks = some a) : checks = .ok a := by
  unfold State.pastChecks at h
  split at h
  · cases checks with
    | ok b => exact congrArg Except.ok (Option.some.inj h)
    | error x => cases h
  · cases h

theorem exists_ok_of_mapE_ok {α β : Type} {f : α → Except Stop β} {l : List α} {r : List β} (h : mapE f l = .ok r)
    {a : α} (ha : a ∈ l) : ∃ b, f a = .ok b := by
  have hall := mapE_ok.1 h
  clear h
  induction hall with
  | nil => cases ha
  | cons hab _ ih =>
    rcases List.mem_cons.1 ha with rfl | ha
    · exact ⟨_, hab⟩
    · exact ih ha

/-! ### Which elements a command may have written -/

/-- FBEGIN, FCOMMIT and FABORT, which lose both grids. -/
def framing (i : Instr) : Prop := i matches .fbegin _ _ _ _ _ | .fcommit | .fabort

/-- PCM loses the samples of QMFS. -/
theorem pcm_of_forgetWritten (h : (s.forgetWritten i).pcmElem e ≠ s.pcmElem e) :
    ∃ c n, i = .qmfs c ∧ s.frame.numTs = some n ∧
      (slotOf c).val * 2048 ≤ e ∧ e < (slotOf c).val * 2048 + 64 * n := by
  cases i with
  | qmfs c =>
    simp only [State.forgetWritten] at h
    split at h
    · next n hn =>
      obtain ⟨-, -, -, -, hnum⟩ := requireQmfs_ok.1 (pastChecks_eq_some hn)
      obtain ⟨hlo, hhi⟩ := List.mem_range'_1.1 (mem_of_read_forget_ne h)
      exact ⟨c, n, rfl, hnum, hlo, hhi⟩
    · exact absurd rfl h
  | fbegin | fcommit | fabort | imdct | qmfa | aspxasm =>
    simp only [State.forgetWritten] at h
    split at h <;> exact absurd rfl h
  | _ => exact absurd rfl h

/-- A window IMDCT may have written has all its coefficients. -/
theorem coef_of_windowsWritten {c : Fin 8} {w : Window} (h : w ∈ s.windowsWritten c) :
    w ∈ (s.wAt c).wins ∧ ∀ k, w.off ≤ k → k < w.off + w.len → (s.chanAt c).coef.at? k ≠ none := by
  refine ⟨List.takeWhile_subset _ h, fun k hlo hhi => ?_⟩
  have hok : (windowCoefs (s.chanAt c).coef w).isOk = true :=
    List.mem_takeWhile_imp (p := fun w => (windowCoefs (s.chanAt c).coef w).isOk) h
  cases hw : windowCoefs (s.chanAt c).coef w with
  | error x => rw [hw] at hok; cases hok
  | ok r =>
    obtain ⟨v, hv⟩ := exists_ok_of_mapE_ok hw (List.mem_range'_1.2 ⟨hlo, hhi⟩)
    rw [valueOf_ok.1 hv]
    exact Option.some_ne_none v

/-- TD loses the windows of IMDCT before the first with a missing coefficient. -/
theorem td_of_forgetWritten (h : (s.forgetWritten i).tdElem e ≠ s.tdElem e) :
    (∃ c, i = .imdct c ∧ ∃ w ∈ (s.wAt (slotOf c)).wins,
      (slotOf c).val * 2048 + w.off ≤ e ∧ e < (slotOf c).val * 2048 + w.off + w.len ∧
      ∀ k, w.off ≤ k → k < w.off + w.len → (s.chanAt (slotOf c)).coef.at? k ≠ none) ∨ framing i := by
  cases i with
  | fbegin | fcommit | fabort => exact .inr rfl
  | imdct c =>
    simp only [State.forgetWritten] at h
    split at h
    · obtain ⟨w, hw, he⟩ := List.mem_flatMap.1 (mem_of_read_forget_ne h)
      obtain ⟨hmem, hcoef⟩ := coef_of_windowsWritten hw
      obtain ⟨hlo, hhi⟩ := List.mem_range'_1.1 he
      exact .inl ⟨c, rfl, w, hmem, hlo, hhi, hcoef⟩
    · exact absurd rfl h
  | qmfs | qmfa | aspxasm =>
    simp only [State.forgetWritten] at h
    split at h <;> exact absurd rfl h
  | _ => exact absurd rfl h

/-- The element `e` of QG is a part of Q[c][ts][k]. -/
def partOf (e : Nat) (c : BitVec 4) (ts k : Nat) : Prop :=
  e = qgIndex (slotOf c).val ts k ∨ e = qgIndex (slotOf c).val ts k + 1

/-- The elements of a row of QG are the parts of its subbands. -/
theorem partOf_of_mem_row {c : BitVec 4} {ts : Nat} (h : e ∈ List.range' (qgIndex (slotOf c).val ts 0) 128) :
    ∃ k < 64, partOf e c ts k := by
  obtain ⟨hlo, hhi⟩ := List.mem_range'_1.1 h
  refine ⟨(e - qgIndex (slotOf c).val ts 0) / 2, by omega, ?_⟩
  unfold partOf
  unfold qgIndex at *
  omega

theorem partOf_of_mem_pair {c : BitVec 4} {ts k : Nat} (h : e ∈ List.range' (qgIndex (slotOf c).val ts k) 2) :
    partOf e c ts k := by
  obtain ⟨hlo, hhi⟩ := List.mem_range'_1.1 h
  unfold partOf
  omega

theorem mem_bandsWritten {c : Fin 8} {n : Nat} {p : Nat × Nat} (h : p ∈ s.bandsWritten c n) :
    p.1 < n ∧ (s.wAt c).sbx ≤ p.2 ∧ p.2 < (s.wAt c).sbTop := by
  obtain ⟨ts, hts, hp⟩ := List.mem_flatMap.1 (List.takeWhile_subset _ h)
  obtain ⟨k, hk, rfl⟩ := List.mem_map.1 hp
  have hts := List.mem_range.1 hts
  obtain ⟨hlo, hhi⟩ := List.mem_range'_1.1 hk
  exact ⟨hts, hlo, by omega⟩

/-- QG loses the rows of QMFA and the high band of ASPXASM. -/
theorem qg_of_forgetWritten (h : (s.forgetWritten i).qgElem e ≠ s.qgElem e) :
    (∃ c n ts k, i = .qmfa c ∧ s.frame.numTs = some n ∧ ts < n ∧ k < 64 ∧ partOf e c ts k) ∨
    (∃ c n ts k, i = .aspxasm c ∧ s.frame.numTs = some n ∧ ts < n ∧ (s.wAt (slotOf c)).sbx ≤ k ∧
      k < (s.wAt (slotOf c)).sbTop ∧ partOf e c ts k) ∨ framing i := by
  cases i with
  | fbegin | fcommit | fabort => exact .inr (.inr rfl)
  | qmfa c =>
    simp only [State.forgetWritten] at h
    split at h
    · next n hn =>
      obtain ⟨-, -, -, hnum⟩ := requireQmfa_ok.1 (pastChecks_eq_some hn)
      obtain ⟨ts, hts, he⟩ := List.mem_flatMap.1 (mem_of_read_forget_ne h)
      obtain ⟨k, hk, hpart⟩ := partOf_of_mem_row he
      exact .inl ⟨c, n, ts, k, rfl, hnum, List.mem_range.1 (List.takeWhile_subset _ hts), hk, hpart⟩
    · exact absurd rfl h
  | aspxasm c =>
    simp only [State.forgetWritten] at h
    split at h
    · next n hn =>
      obtain ⟨-, -, -, hnum⟩ := requireAspxasm_ok.1 (pastChecks_eq_some hn)
      obtain ⟨p, hp, he⟩ := List.mem_flatMap.1 (mem_of_read_forget_ne h)
      obtain ⟨hts, hlo, hhi⟩ := mem_bandsWritten hp
      exact .inr (.inl ⟨c, n, p.1, p.2, rfl, hnum, hts, hlo, hhi, partOf_of_mem_pair he⟩)
    · exact absurd rfl h
  | qmfs | imdct =>
    simp only [State.forgetWritten] at h
    split at h <;> exact absurd rfl h
  | _ => exact absurd rfl h

/-! ### What is kept -/

/-- BSM, SIM and the host's accesses are as before. -/
def hostMemoryKept (s t : State) : Prop := t.bsm = s.bsm ∧ t.sim = s.sim ∧ t.hostQ = s.hostQ

theorem forgetWritten_keeps_hostMemory : hostMemoryKept s (s.forgetWritten i) := by
  cases i with
  | fbegin | fcommit | fabort | imdct | qmfa | aspxasm | qmfs =>
    simp only [State.forgetWritten]
    split <;> exact ⟨rfl, rfl, rfl⟩
  | _ => exact ⟨rfl, rfl, rfl⟩

/-- An abandoned command is one that decodes: another word has no effect to abandon. -/
theorem abandon_cases : (∃ i, decode s.cmd = .ok i ∧ s.abandon = (s.forgetWritten i).blockReset) ∨
    s.abandon = s.blockReset := by
  unfold State.abandon
  cases decode s.cmd with
  | ok i => exact .inl ⟨i, rfl, rfl⟩
  | error x => exact .inr rfl

/-- Settles O33: the step is the block reset of the state whose written elements are forgotten. -/
theorem abandonedCommand : Obligations.AbandonedCommand := by
  intro s v q hb hq hv framed pair
  have hstep : step s = .next { s with hostQ := q }.abandon := by
    rw [step_of_impatient hb rfl hq, busyAccess_writeCtrl (whole_eq_true rfl (Nat.mod_self 4)) rfl rfl, if_pos hv]
  refine ⟨_, hstep, ?_⟩
  obtain ⟨i, hd, habandon⟩ | habandon := abandon_cases (s := { s with hostQ := q })
  · rw [habandon]
    obtain ⟨hbsm, hsim, hhost⟩ := forgetWritten_keeps_hostMemory (s := { s with hostQ := q }) (i := i)
    refine ⟨blockReset_atResetValues _, forgetWritten_cfg (s := { s with hostQ := q }), hbsm, hsim, hhost,
      fun e he => ?_, fun e he => ?_, fun e he => ?_⟩
    · obtain ⟨c, n, rfl, hrest⟩ := pcm_of_forgetWritten (s := { s with hostQ := q }) he
      exact ⟨c, n, hd, hrest⟩
    · rcases td_of_forgetWritten (s := { s with hostQ := q }) he with ⟨c, rfl, hrest⟩ | hframing
      · exact .inl ⟨c, hd, hrest⟩
      · exact .inr ⟨i, hd, hframing⟩
    · rcases qg_of_forgetWritten (s := { s with hostQ := q }) he with
        ⟨c, n, ts, k, rfl, hrest⟩ | ⟨c, n, ts, k, rfl, hrest⟩ | hframing
      · exact .inl ⟨c, n, ts, k, hd, hrest⟩
      · exact .inr (.inl ⟨c, n, ts, k, hd, hrest⟩)
      · exact .inr (.inr ⟨i, hd, hframing⟩)
  · rw [habandon]
    exact ⟨blockReset_atResetValues _, rfl, rfl, rfl, rfl, fun e he => absurd rfl he, fun e he => absurd rfl he,
      fun e he => absurd rfl he⟩

end Sys2Proof.Proofs

/-! The host's accesses of the registers (10_state.md R41 to R46, R52) and of one element in range through HDATA (R51,
R60; 20_memory.md R100), and the step that runs the command in CMD (10_state.md R45). -/

namespace Sys2Proof.Proofs

open Sys2Proof Sys2Proof.Machine Sys2Proof.Laws Sys2Proof.Config

variable {s : State} {q : List HostAccess} {b : Bool} {offset : Nat} {v : Word}

/-! ### The command in CMD -/

/-- A placed word waits in CMD, the host's next access waiting for its end (10_state.md R45). -/
theorem withCommand_aboutToRun (s : State) (v : Word) : (s.withCommand v).aboutToRun := by
  refine ⟨rfl, fun a ha => ?_⟩
  have hfirst := List.head?_dropWhile_not (·.whileBusy) s.hostQ
  rw [show (s.hostQ.dropWhile (·.whileBusy)).head? = some a from ha] at hfirst
  exact hfirst

theorem decode_of_decodeTableWord {nbits w : Nat} {i : Instr} (h : decodeTableWord nbits w = some i) :
    decode (BitVec.ofNat 32 (w % 2 ^ nbits)) = .ok i := by
  unfold decodeTableWord at h
  cases hd : decode (BitVec.ofNat 32 (w % 2 ^ nbits)) with
  | error e => rw [hd] at h; cases h
  | ok j => rw [hd] at h; exact congrArg Except.ok (Option.some.inj h)

/-- Settles O4: a placed word is about to run, and a word about to run is what the step runs. -/
theorem stepRunsDecodedCommand : Obligations.StepRunsDecodedCommand :=
  ⟨fun _ _ => step_of_decode_ok, fun s _ _ _ h =>
    step_of_decode_ok (withCommand_aboutToRun s _) (decode_of_decodeTableWord h)⟩

/-! ### One access of a register -/

theorem step_readRegister (hb : s.status.busy = false) (hq : s.hostQ = ⟨offset, 4, none, b⟩ :: q)
    (halign : offset % 4 = 0) : step s = .next ({ s with hostQ := q }.readRegister offset) := by
  rw [step_of_idle hb hq]
  exact access_next.2 ⟨whole_eq_true rfl halign, .inr ⟨rfl, rfl⟩⟩

theorem step_writeRegister (hb : s.status.busy = false) (hq : s.hostQ = ⟨offset, 4, some v, b⟩ :: q)
    (halign : offset % 4 = 0) : step s = .next ({ s with hostQ := q }.writeRegister offset v) := by
  rw [step_of_idle hb hq]
  exact access_next.2 ⟨whole_eq_true rfl halign, .inl ⟨v, rfl, rfl⟩⟩

/-- Settles O26: the write of CMD is the issue, its read answers CMD, and without an access CORE is idle. -/
theorem cmdWriteIssues : Obligations.CmdWriteIssues :=
  ⟨fun _ _ _ _ hb hq => step_writeRegister hb hq rfl, fun _ _ _ hb hq => step_readRegister hb hq rfl,
    fun _ hb hq => by simp [step, State.advance, hq, hb]⟩

/-! ### What a register reads as -/

/-- A flag put behind the fields of a word. -/
theorem toNat_append_flag {n : Nat} (w : BitVec n) (f : Bool) :
    (w ++ BitVec.ofBool f).toNat = f.toNat + 2 * w.toNat := by
  rw [toNat_append_eq_add, BitVec.toNat_ofBool]
  omega

theorem ctrl_toWord_eq (x : Ctrl) :
    x.toWord = BitVec.ofNat 32 (2 * x.ieDone.toNat + 4 * x.ieErr.toNat + 8 * x.ieWarn.toNat + 16 * x.ieHerr.toNat) := by
  obtain ⟨d, e, w, h⟩ := x
  revert d e w h
  decide

/-- A word is the one its value numbers. -/
theorem eq_ofNat_of_toNat {n : Nat} (h : v.toNat = n) : v = BitVec.ofNat 32 n := by
  rw [← h, BitVec.ofNat_toNat, BitVec.setWidth_eq]

theorem status_toWord_eq (x : Status) :
    x.toWord = BitVec.ofNat 32 (x.busy.toNat + 2 * x.fopen.toNat + 4 * x.ffail.toNat + 8 * x.done.toNat + 16 * x.err.toNat
      + 32 * x.warn.toNat + 64 * x.gap.toNat + 128 * x.herr.toNat + 256 * x.errcode.toNat + 65536 * x.warncode.toNat
      + 16777216 * x.pcmv.toNat) := by
  apply eq_ofNat_of_toNat
  simp only [Status.toWord, toNat_append_eq_add, BitVec.toNat_ofBool, BitVec.toNat_ofNat]
  omega

/-- Settles O28: a read of a register leaves its word in `rdata`, the fields of CTRL and STATUS at their bits. -/
theorem registerReads : Obligations.RegisterReads := by
  intro s offset b q hb hq halign hdata
  rw [step_readRegister hb hq halign, State.readRegister, if_neg hdata]
  rw [← ctrl_toWord_eq, ← status_toWord_eq]
  rfl

/-! ### What a write of a register does -/

/-- Only seven registers can be written (10_state.md R41, R44). -/
theorem writeRegister_ignored (h : offset ∉ [0x04, 0x08, 0x0C, 0x10, 0x14, 0x2C, 0x30]) :
    s.writeRegister offset v = s := by
  unfold State.writeRegister
  split
  case h_8 => rfl
  all_goals exact absurd (by decide) h

/-- A flag is cleared where its bit is written 1. -/
theorem and_not_eq_ite (f c : Bool) : (f && !c) = if c then false else f := by cases c <;> simp

/-- Settles O29: the write of each register, W1C a flag at a time. -/
theorem registerWrites : Obligations.RegisterWrites := by
  intro s offset v b q hb hq halign hcmd hdata hreset
  refine ⟨_, step_writeRegister hb hq halign, ?_, ?_, ?_, ?_, ?_, fun h => writeRegister_ignored ?_⟩
  · rintro rfl
    exact writeCtrl_enables (by simpa using hreset)
  · rintro rfl
    simp only [State.writeRegister, Status.w1c, and_not_eq_ite]
  · rintro rfl
    rfl
  · rintro rfl
    rfl
  · rintro rfl
    rfl
  · simp only [List.mem_cons, List.not_mem_nil, or_false] at h ⊢
    omega

/-! ### HDATA in range -/

theorem readHdata_of_lt (h : s.hindex < spaceSize s.hspace) :
    s.readHdata = { s with rdata := s.memRead s.hspace s.hindex }.advanceHaddr := by
  rw [State.readHdata, if_pos h]

theorem writeHdata_of_lt (h : s.hindex < spaceSize s.hspace) (hw : spaceWritable s.hspace = true) :
    s.writeHdata v = (s.memWrite s.hspace s.hindex v).advanceHaddr := by
  rw [State.writeHdata, if_pos ⟨h, hw⟩]

theorem memRead_eq_getD (space i : Nat) :
    s.memRead space i =
      [(s.bsmByte i).setWidth 32, s.simElem i, s.pcmElem i, s.qgElem i, s.tdElem i].getD space 0 := by
  match space with
  | 0 | 1 | 2 | 3 | 4 | _ + 5 => rfl

/-- An element reads as it was written, every other one as before. -/
theorem read_set {α : Type} [DecidableEq α] (any : Nat → Nat → α) {m : Memory α} (h : m.wf = true) (i j : Nat) (x : α) :
    (m.set i x).read any j = if j = i then x else m.read any j := by
  split_ifs with hj
  · exact hj ▸ read_set_self any h i x
  · exact read_set_other any m i j x hj

/-- What a write of one element leaves in the spaces the host may write (20_memory.md R100). -/
theorem memWrite_reads (hs : s.canonical = true) {space i : Nat} (hw : spaceWritable space = true) :
    (∀ a, (s.memWrite space i v).bsmByte a = if space = 0 ∧ a = i then v.setWidth 8 else s.bsmByte a) ∧
    (∀ a, (s.memWrite space i v).simElem a = if space = 1 ∧ a = i then v else s.simElem a) ∧
    (∀ a, (s.memWrite space i v).qgElem a = if space = 3 ∧ a = i then v else s.qgElem a) := by
  match space, hw with
  | 0, _ =>
    refine ⟨fun a => (read_set anyByte (wf_bsm hs) i a (v.setWidth 8)).trans ?_, fun a => ?_, fun a => ?_⟩ <;> simp <;> rfl
  | 1, _ =>
    refine ⟨fun a => ?_, fun a => (read_set (anyWord 1) (wf_sim hs) i a v).trans ?_, fun a => ?_⟩ <;> simp <;> rfl
  | 3, _ =>
    refine ⟨fun a => ?_, fun a => ?_, fun a => (read_set (anyWord 3) (wf_qg hs) i a v).trans ?_⟩ <;> simp <;> rfl

/-- A write of one element changes no field but its space. -/
theorem memWrite_eq (space i : Nat) :
    s.memWrite space i v =
      { s with
        bsm := (s.memWrite space i v).bsm, sim := (s.memWrite space i v).sim, qg := (s.memWrite space i v).qg } := by
  unfold State.memWrite
  split <;> rfl

/-- Settles O30: the access is the read or the write of HDATA that passes its range check. -/
theorem hdataMovesOneElement : Obligations.HdataMovesOneElement := by
  intro s space index b q hb hs hat hspace hindex
  obtain ⟨rfl, rfl⟩ := Prod.mk.inj hat
  rw [← spaceSize_eq_getD] at hindex
  refine ⟨fun hq => ?_, fun v hq hpcm htd => ?_⟩
  · rw [step_readHdata hb hq, readHdata_of_lt (s := { s with hostQ := q }) hindex, advanceHaddr_eq, memRead_eq_getD]
    rfl
  · have hw : spaceWritable s.hspace = true := by
      have hspace : s.hspace < 5 := hspace
      have hpcm : s.hspace ≠ 2 := hpcm
      have htd : s.hspace ≠ 4 := htd
      obtain h | h | h : s.hspace = 0 ∨ s.hspace = 1 ∨ s.hspace = 3 := by omega
      all_goals rw [h]; rfl
    have hstep := step_writeHdata hb hq
    rw [writeHdata_of_lt (s := { s with hostQ := q }) hindex hw] at hstep
    refine ⟨_, hstep, ?_, memWrite_reads (s := { s with hostQ := q }) hs hw⟩
    rw [advanceHaddr_eq, memWrite_eq]
    rfl

end Sys2Proof.Proofs

/-! What commands may touch. The three ways a command ends in a next state; then the footprint of each command that
neither begins nor ends a frame, said once, from which the statements on STATUS, RESULT, the memory spaces, the committed
generation and the cursor follow. -/

namespace Sys2Proof.Proofs

open Sys2Proof Sys2Proof.Machine Sys2Proof.Laws Sys2Proof.Config

variable {s t u : State} {i : Instr}

/-! ### How a command ends -/

/-- A command is discarded, raises a fatal error, or completes what its pseudocode answers, its slots then legal
(60_exceptions.md R381, R383, R385). -/
theorem exec_cases (h : exec i s = .next t) :
    t = s.complete ∨ (∃ e, t = s.takeFatal e) ∨
      (∀ c ∈ i.slots, c.toNat < 8) ∧ ∃ u, pseudocode i s = .ok u ∧ t = u.complete := by
  obtain ⟨u, hu, rfl⟩ | ⟨e, -, rfl⟩ := exec_next.1 h
  · unfold outcome at hu
    split_ifs at hu with hslots hdiscard
    · exact .inl (Except.ok.inj hu ▸ rfl)
    · exact .inr (.inr ⟨fun c hc => of_decide_eq_true (List.all_eq_true.1 hslots c hc), u, hu, rfl⟩)
    · cases hu
  · exact .inr (.inl ⟨e, rfl⟩)

/-! ### Slots a command does not name -/

theorem otherSlotsKept_refl (cs : List (Fin 8)) (s : State) : otherSlotsKept cs s s := fun _ _ => ⟨rfl, rfl⟩

section
variable {cs : List (Fin 8)} {c : Fin 8}

theorem otherSlotsKept_setW (hc : c ∈ cs) (h : otherSlotsKept cs s t) (y : ChannelState) :
    otherSlotsKept cs s (t.setW c y) := by
  intro d hd
  rw [wAt_setW_other t c d y fun hdc => hd (hdc ▸ hc)]
  exact h d hd

theorem otherSlotsKept_setChan (hc : c ∈ cs) (h : otherSlotsKept cs s t) (f : ChanFrame) :
    otherSlotsKept cs s (t.setChan c f) := by
  intro d hd
  rw [chanAt_setChan_other t c d f fun hdc => hd (hdc ▸ hc)]
  exact h d hd

theorem otherSlotsKept_markDone (hc : c ∈ cs) (h : otherSlotsKept cs s t) (x : Stage) :
    otherSlotsKept cs s (t.markDone c x) := otherSlotsKept_setChan hc h _

/-- A command of one slot that writes F[c]. -/
theorem otherSlotsKept_of_chan (h : otherSlotsKept [c] s t) (f : ChanFrame) (x : Stage) :
    otherSlotsKept [c] s ((t.setChan c f).markDone c x) :=
  otherSlotsKept_markDone (List.mem_singleton_self c) (otherSlotsKept_setChan (List.mem_singleton_self c) h f) x

/-- A command of one slot that writes W[c]. -/
theorem otherSlotsKept_of_record (h : otherSlotsKept [c] s t) (y : ChannelState) (x : Stage) :
    otherSlotsKept [c] s ((t.setW c y).markDone c x) :=
  otherSlotsKept_markDone (List.mem_singleton_self c) (otherSlotsKept_setW (List.mem_singleton_self c) h y) x

/-- A command of one slot that writes W[c] and F[c]. -/
theorem otherSlotsKept_of_both (h : otherSlotsKept [c] s t) (y : ChannelState) (f : ChanFrame) (x : Stage) :
    otherSlotsKept [c] s (((t.setW c y).setChan c f).markDone c x) :=
  otherSlotsKept_of_chan (otherSlotsKept_setW (List.mem_singleton_self c) h y) f x

theorem otherSlotsKept_takeWarning {x : Warning} : otherSlotsKept cs s (t.takeWarning x) ↔ otherSlotsKept cs s t :=
  Iff.rfl

end

/-! ### The footprint of a command -/

/-- The commands that move the cursor. -/
def movesCursor : Instr → Bool
  | .rdbits _ | .rdunary _ _ | .rdvlc _ | .rdesc _ | .sect _ _ _ | .spec _ _ | .sf _ _ _ | .arith _ _ => true
  | _ => false

/-- The commands that write a channel record. -/
def writesRecord : Instr → Bool
  | .chreset _ | .setlayout _ | .imdct _ | .qmfa _ | .qmfs _ | .aspxcfg _ | .aspxenv _ | .aspxhf _ | .aspxasm _ => true
  | _ => false

/-- The commands that write RESULT (10_state.md R46). -/
def writesResult : Instr → Bool
  | .rdbits _ | .rdunary _ _ | .rdvlc _ | .rdesc _ => true
  | _ => false

/-- The command that writes PCM (10_state.md R63). -/
def writesPcm : Instr → Bool
  | .qmfs _ => true
  | _ => false

/-- The command that writes TD (10_state.md R65). -/
def writesTd : Instr → Bool
  | .imdct _ => true
  | _ => false

/-- The commands that write QG (10_state.md R64). -/
def writesQg : Instr → Bool
  | .qmfa _ | .aspxasm _ => true
  | _ => false

/-- The command that writes K outside a frame's end (10_state.md R79). -/
def resetsCommitted : Instr → Bool
  | .chreset _ => true
  | _ => false

/-- What a command that neither begins nor ends a frame leaves alone: the registers FBEGIN writes, F, every slot it does
not name, and each other part of the state but for the commands named (10_state.md R46, R48 to R50, R63 to R65, R70,
R78). -/
structure Footprint (i : Instr) (s u : State) : Prop where
  registers : u.bitlen = s.bitlen ∧ u.fcfg = s.fcfg ∧ u.seq = s.seq ∧ u.frame = s.frame
  slots : otherSlotsKept (i.slots.map slotOf) s u
  pcm : writesPcm i = false → u.pcm = s.pcm
  td : writesTd i = false → u.td = s.td
  qg : writesQg i = false → u.qg = s.qg
  result : writesResult i = false → u.result = s.result
  bitpos : movesCursor i = false → u.bitpos = s.bitpos
  w : writesRecord i = false → u.w = s.w
  k : resetsCommitted i = false → u.k = s.k

/-- A command that writes F[c], the cursor and STATUS at most. -/
theorem footprint_of_chan (hu : u = { s with status := u.status, bitpos := u.bitpos, chan := u.chan })
    (hslots : otherSlotsKept (i.slots.map slotOf) s u) (hcursor : movesCursor i = false → u.bitpos = s.bitpos) :
    Footprint i s u := by
  refine ⟨?_, hslots, ?_, ?_, ?_, ?_, hcursor, ?_, ?_⟩ <;> rw [hu]
  · exact ⟨rfl, rfl, rfl, rfl⟩
  all_goals exact fun _ => rfl

/-- A command that writes W[c] and F[c] at most. -/
theorem footprint_of_record (hu : u = { s with w := u.w, chan := u.chan })
    (hslots : otherSlotsKept (i.slots.map slotOf) s u) (hi : writesRecord i = true) : Footprint i s u := by
  refine ⟨?_, hslots, ?_, ?_, ?_, ?_, ?_, fun hno => by simp [hi] at hno, ?_⟩ <;> rw [hu]
  · exact ⟨rfl, rfl, rfl, rfl⟩
  all_goals exact fun _ => rfl

theorem readCommand_footprint {ok : Bool} {m : State → BitM Nat} (h : readCommand ok m s = .ok u)
    (hi : writesResult i = true) (hmoves : movesCursor i = true) : Footprint i s u := by
  obtain ⟨-, -, v, pos, -, rfl⟩ := readCommand_ok.1 h
  exact ⟨⟨rfl, rfl, rfl, rfl⟩, otherSlotsKept_refl _ _, fun _ => rfl, fun _ => rfl, fun _ => rfl,
    fun hno => by simp [hi] at hno, fun hno => by simp [hmoves] at hno, fun _ => rfl, fun _ => rfl⟩

theorem chresetBody_footprint {c : BitVec 4} (h : chresetBody (slotOf c) s = .ok u) : Footprint (.chreset c) s u := by
  have hother : otherSlotsKept [slotOf c] s (s.setW (slotOf c) (.reset s.cfg)) :=
    otherSlotsKept_setW (List.mem_singleton_self _) (otherSlotsKept_refl _ s) _
  obtain ⟨-, rfl⟩ | ⟨-, rfl⟩ := chresetBody_ok h <;>
    exact ⟨⟨rfl, rfl, rfl, rfl⟩, hother, fun _ => rfl, fun _ => rfl, fun _ => rfl, fun _ => rfl, fun _ => rfl, nofun,
      nofun⟩

theorem setlayoutBody_footprint {c : BitVec 4} (h : setlayoutBody (slotOf c) s = .ok u) :
    Footprint (.setlayout c) s u := by
  obtain ⟨-, -, -, gs, -, rfl⟩ := setlayoutBody_ok.1 h
  exact footprint_of_record rfl (otherSlotsKept_of_record (otherSlotsKept_refl _ s) _ _) rfl

theorem sectBody_footprint {c g n : BitVec 4} (h : sectBody (slotOf c) (groupOf g) n.toNat s = .ok u) :
    Footprint (.sect c g n) s u := by
  obtain ⟨-, -, -, -, cbs, pos, -, rfl⟩ := sectBody_ok.1 h
  exact footprint_of_chan rfl (otherSlotsKept_of_chan (fun _ _ => ⟨rfl, rfl⟩) _ _) nofun

theorem specBody_footprint {c g : BitVec 4} (h : specBody (slotOf c) (groupOf g) s = .ok u) :
    Footprint (.spec c g) s u := by
  obtain ⟨-, -, -, vals, pos, q, mags, -, rfl⟩ := specBody_ok h
  exact footprint_of_chan rfl (otherSlotsKept_of_chan (fun _ _ => ⟨rfl, rfl⟩) _ _) nofun

theorem sfBody_footprint {c g : BitVec 4} {snfp : Bool} (h : sfBody (slotOf c) (groupOf g) snfp s = .ok u) :
    Footprint (.sf c g snfp) s u := by
  obtain ⟨-, -, -, start, r, pos, -, -, rfl⟩ := sfBody_ok h
  exact footprint_of_chan rfl (otherSlotsKept_of_chan (fun _ _ => ⟨rfl, rfl⟩) _ _) nofun

theorem arithBody_footprint {c g : BitVec 4} (h : arithBody (slotOf c) (groupOf g) s = .ok u) :
    Footprint (.arith c g) s u := by
  obtain ⟨-, -, -, -, f, -, -, rfl⟩ := arithBody_ok h
  exact footprint_of_chan rfl
    (otherSlotsKept_takeWarning.2 (otherSlotsKept_setChan (List.mem_singleton_self _) (fun _ _ => ⟨rfl, rfl⟩) f)) nofun

theorem deqBody_footprint {c g : BitVec 4} (h : deqBody (slotOf c) (groupOf g) s = .ok u) :
    Footprint (.deq c g) s u := by
  obtain ⟨-, -, -, coefs, -, rfl⟩ := deqBody_ok.1 h
  exact footprint_of_chan rfl (otherSlotsKept_of_chan (otherSlotsKept_refl _ s) _ _) fun _ => rfl

/-- STEREO writes F of its two slots. -/
theorem footprint_of_pair {c c2 : BitVec 4} (f f2 : ChanFrame) (x : Stage) : Footprint (.stereo c c2) s
    ((((s.setChan (slotOf c) f).setChan (slotOf c2) f2).markDone (slotOf c) x).markDone (slotOf c2) x) := by
  have h1 : slotOf c ∈ [slotOf c, slotOf c2] := List.mem_cons_self
  have h2 : slotOf c2 ∈ [slotOf c, slotOf c2] := List.mem_cons_of_mem _ List.mem_cons_self
  have hother : otherSlotsKept [slotOf c, slotOf c2] s ((s.setChan (slotOf c) f).setChan (slotOf c2) f2) :=
    otherSlotsKept_setChan h2 (otherSlotsKept_setChan h1 (otherSlotsKept_refl _ s) f) f2
  refine ⟨⟨?_, ?_, ?_, ?_⟩, otherSlotsKept_markDone h2 (otherSlotsKept_markDone h1 hother x) x, ?_, ?_, ?_, ?_, ?_, ?_, ?_⟩
    <;> simp

theorem stereoBody_footprint {c c2 : BitVec 4} (h : stereoBody (slotOf c) (slotOf c2) s = .ok u) :
    Footprint (.stereo c c2) s u := by
  obtain ⟨-, -, -, -, -, -, -, new, -, rfl⟩ := stereoBody_ok h
  exact footprint_of_pair _ _ _

theorem imdctBody_footprint {c : BitVec 4} (h : imdctBody (slotOf c) s = .ok u) :
    Footprint (.imdct c) s u := by
  obtain ⟨-, -, -, -, x, td, -, rfl⟩ := imdctBody_ok.1 h
  exact ⟨⟨rfl, rfl, rfl, rfl⟩, otherSlotsKept_of_record (fun _ _ => ⟨rfl, rfl⟩) _ _, fun _ => rfl, nofun,
    fun _ => rfl, fun _ => rfl, fun _ => rfl, nofun, fun _ => rfl⟩

theorem qmfaBody_footprint {c : BitVec 4} (h : qmfaBody (slotOf c) s = .ok u) :
    Footprint (.qmfa c) s u := by
  obtain ⟨-, -, -, numTs, input, -, -, rfl⟩ := qmfaBody_ok.1 h
  exact ⟨⟨rfl, rfl, rfl, rfl⟩, otherSlotsKept_of_both (fun _ _ => ⟨rfl, rfl⟩) _ _ _, fun _ => rfl, fun _ => rfl,
    nofun, fun _ => rfl, fun _ => rfl, nofun, fun _ => rfl⟩

theorem qmfsBody_footprint {c : BitVec 4} (h : qmfsBody (slotOf c) s = .ok u) :
    Footprint (.qmfs c) s u := by
  obtain ⟨-, -, -, -, numTs, -, rfl⟩ := qmfsBody_ok.1 h
  exact ⟨⟨rfl, rfl, rfl, rfl⟩, otherSlotsKept_of_record (fun _ _ => ⟨rfl, rfl⟩) _ _, nofun, fun _ => rfl,
    fun _ => rfl, fun _ => rfl, fun _ => rfl, nofun, fun _ => rfl⟩

theorem aspxcfgBody_footprint {c : BitVec 4} (h : aspxcfgBody (slotOf c) s = .ok u) :
    Footprint (.aspxcfg c) s u := by
  obtain ⟨-, -, -, x, -, rfl⟩ := aspxcfgBody_ok.1 h
  exact footprint_of_record rfl (otherSlotsKept_of_record (otherSlotsKept_refl _ s) _ _) rfl

theorem aspxenvBody_footprint {c : BitVec 4} (h : aspxenvBody (slotOf c) s = .ok u) :
    Footprint (.aspxenv c) s u := by
  obtain ⟨-, -, -, a, sig, noise, x, f, -, -, -, -, -, -, -, -, rfl⟩ := aspxenvBody_ok h
  exact footprint_of_record rfl (otherSlotsKept_of_both (otherSlotsKept_refl _ s) _ _ _) rfl

theorem aspxhfBody_footprint {c : BitVec 4} (h : aspxhfBody (slotOf c) s = .ok u) :
    Footprint (.aspxhf c) s u := by
  obtain ⟨-, -, -, modes, numTs, qlow, alphas, x, f, -, -, -, -, -, -, rfl⟩ := aspxhfBody_ok h
  exact footprint_of_record rfl (otherSlotsKept_of_both (otherSlotsKept_refl _ s) _ _ _) rfl

theorem aspxgainBody_footprint {c : BitVec 4} (h : aspxgainBody (slotOf c) s = .ok u) :
    Footprint (.aspxgain c) s u := by
  obtain ⟨-, -, -, a, pair, tones, levels, f, -, -, -, -, -, rfl⟩ := aspxgainBody_ok h
  exact footprint_of_chan rfl (otherSlotsKept_of_chan (otherSlotsKept_refl _ s) _ _) fun _ => rfl

theorem aspxasmBody_footprint {c : BitVec 4} (h : aspxasmBody (slotOf c) s = .ok u) :
    Footprint (.aspxasm c) s u := by
  obtain ⟨-, -, -, numTs, x, qg, -, -, rfl⟩ := aspxasmBody_ok.1 h
  exact ⟨⟨rfl, rfl, rfl, rfl⟩, otherSlotsKept_of_record (fun _ _ => ⟨rfl, rfl⟩) _ _, fun _ => rfl, fun _ => rfl,
    nofun, fun _ => rfl, fun _ => rfl, nofun, fun _ => rfl⟩

theorem pseudocode_footprint (hi : ¬framing i) (h : pseudocode i s = .ok u) : Footprint i s u := by
  unfold pseudocode at h
  cases i with
  | fbegin | fcommit | fabort => exact absurd rfl hi
  | nop => exact Except.ok.inj h ▸ footprint_of_chan rfl (otherSlotsKept_refl _ s) fun _ => rfl
  | rdbits | rdunary | rdvlc | rdesc => exact readCommand_footprint h rfl rfl
  | chreset => exact chresetBody_footprint h
  | setlayout => exact setlayoutBody_footprint h
  | sect => exact sectBody_footprint h
  | spec => exact specBody_footprint h
  | sf => exact sfBody_footprint h
  | arith => exact arithBody_footprint h
  | deq => exact deqBody_footprint h
  | stereo => exact stereoBody_footprint h
  | imdct => exact imdctBody_footprint h
  | qmfa => exact qmfaBody_footprint h
  | qmfs => exact qmfsBody_footprint h
  | aspxcfg => exact aspxcfgBody_footprint h
  | aspxenv => exact aspxenvBody_footprint h
  | aspxhf => exact aspxhfBody_footprint h
  | aspxgain => exact aspxgainBody_footprint h
  | aspxasm => exact aspxasmBody_footprint h

/-! ### STATUS -/

theorem beginFrame_status_cases (f m : BitVec 4) (d : BitVec 2) (indep seqp : Bool) (s : State) :
    (beginFrame f m d indep seqp s).status = { s.status with fopen := true, ffail := false, pcmv := false } ∨
    (beginFrame f m d indep seqp s).status =
      { s.status with
        fopen := true, ffail := false, pcmv := false, warn := true
        warncode := if s.status.warn then s.status.warncode else 16 } := by
  by_cases h : seqp = true ∧ sequenceBroken s s.argSeq
  · exact .inr (beginFrame_status_of_gap h.1 h.2)
  · exact .inl (beginFrame_status_of_no_gap h)

/-- Settles O10: a command that ends without its pseudocode changes BUSY, DONE and the error's flags alone, and of the
pseudocodes four write STATUS. -/
theorem flagsChangeOnlyAsNamed : Obligations.FlagsChangeOnlyAsNamed := by
  intro i s t h
  obtain rfl | ⟨e, rfl⟩ | ⟨-, u, hu, rfl⟩ := exec_cases h
  · simp +contextual
  · simp +contextual
  cases hi : writesFlags i with
  | false =>
    obtain ⟨hstatus, -, -⟩ := pseudocode_keeps_flags hi hu
    simp +contextual [hstatus]
  | true =>
    unfold pseudocode at hu
    cases i with
    | fbegin f m d indep seqp =>
      obtain ⟨-, rfl⟩ := fbeginBody_ok_iff.1 hu
      obtain hstatus | hstatus := beginFrame_status_cases f m d indep seqp s
      · simp +contextual [hstatus]
      · simp +contextual [hstatus]
    | fcommit =>
      obtain ⟨-, ⟨-, rfl⟩ | ⟨hfail, -, rfl⟩⟩ := fcommitBody_ok.1 hu
      · simp +contextual
      · simp +contextual [hfail]
    | fabort =>
      obtain ⟨-, rfl⟩ := fabortBody_ok.1 hu
      simp +contextual
    | arith =>
      obtain ⟨-, -, -, -, f, -, -, rfl⟩ := arithBody_ok hu
      simp +contextual [Warning.code]
    | _ => cases hi

/-! ### RESULT and the memory spaces -/

/-- The begin and the end of a frame write neither RESULT nor PCM. -/
theorem framing_keeps (hi : framing i) (h : pseudocode i s = .ok u) : u.result = s.result ∧ u.pcm = s.pcm := by
  unfold pseudocode at h
  cases i with
  | fbegin =>
    obtain ⟨-, rfl⟩ := fbeginBody_ok_iff.1 h
    rw [beginFrame_eq]
    exact ⟨rfl, rfl⟩
  | fcommit => obtain ⟨-, ⟨-, rfl⟩ | ⟨-, -, rfl⟩⟩ := fcommitBody_ok.1 h <;> exact ⟨rfl, rfl⟩
  | fabort =>
    obtain ⟨-, rfl⟩ := fabortBody_ok.1 h
    exact ⟨rfl, rfl⟩
  | _ => cases hi

/-- Settles O12: RESULT by what each pseudocode writes; an error that ends a command leaves it, and a command that
completes raises no error. -/
theorem operandAndResultRegisters : Obligations.OperandAndResultRegisters := by
  intro i s t h
  obtain ⟨-, -, -, harg0, harg1, -⟩ := exec_keeps_hostSide h
  refine ⟨harg0, harg1, ?_⟩
  obtain rfl | ⟨e, rfl⟩ | ⟨-, u, hu, rfl⟩ := exec_cases h
  · exact ⟨fun hne => absurd rfl hne, fun _ _ => rfl⟩
  · exact ⟨fun hne => absurd rfl hne, fun _ _ => rfl⟩
  refine ⟨fun hne => ?_, fun herr hno => ?_⟩
  · cases hnamed : writesResult i with
    | true => exact hnamed
    | false =>
      by_cases hi : framing i
      · exact absurd (framing_keeps hi hu).1 hne
      · exact absurd ((pseudocode_footprint hi hu).result hnamed) hne
  · obtain ⟨hkept, -⟩ := pseudocode_keeps_err hu
    exact absurd (hkept.symm.trans herr) (by simp [hno])

/-- Settles O13: each space by what each pseudocode writes. -/
theorem memoriesOnlyByNamedCommands : Obligations.MemoriesOnlyByNamedCommands := by
  intro i s t h
  refine ⟨exec_keeps_hostSide h, ?_⟩
  obtain rfl | ⟨e, rfl⟩ | ⟨-, u, hu, rfl⟩ := exec_cases h
  · exact ⟨fun hne => absurd rfl hne, fun hne => absurd rfl hne, fun hne => absurd rfl hne⟩
  · exact ⟨fun hne => absurd rfl hne, fun hne => absurd rfl hne, fun hne => absurd rfl hne⟩
  by_cases hi : framing i
  · refine ⟨fun hne => absurd (framing_keeps hi hu).2 hne, fun _ => ?_, fun _ => ?_⟩ <;> revert hi <;> clear h hu <;>
      cases i <;> simp [framing]
  · have hfoot := pseudocode_footprint hi hu
    refine ⟨fun hne => ?_, fun hne => ?_, fun hne => ?_⟩
    · exact Bool.of_not_eq_false fun hno => hne (hfoot.pcm hno)
    · have hnamed : writesTd i = true := Bool.of_not_eq_false fun hno => hne (hfoot.td hno)
      revert hnamed; clear h hu hne hi
      cases i <;> simp [writesTd]
    · have hnamed : writesQg i = true := Bool.of_not_eq_false fun hno => hne (hfoot.qg hno)
      revert hnamed
      cases i <;> simp [writesQg]

/-! ### The committed generation -/

/-- What the pseudocode of each command makes of K (10_state.md R70, R79). -/
theorem pseudocode_k (h : pseudocode i s = .ok u) :
    u.k = s.k ∨ (i = .fcommit ∧ s.status.fopen = true ∧ s.status.ffail = false ∧ u.k = s.w) ∨
    ∃ c, i = .chreset c ∧ s.status.fopen = false ∧ u.k = s.k.set (slotOf c) (ChannelState.reset s.cfg) := by
  cases i with
  | fbegin =>
    obtain ⟨-, rfl⟩ := fbeginBody_ok_iff.1 h
    rw [beginFrame_eq]
    exact .inl rfl
  | fcommit =>
    obtain ⟨ho, ⟨-, rfl⟩ | ⟨hfail, -, rfl⟩⟩ := fcommitBody_ok.1 h
    · exact .inl rfl
    · exact .inr (.inl ⟨rfl, ho, hfail, rfl⟩)
  | fabort =>
    obtain ⟨-, rfl⟩ := fabortBody_ok.1 h
    exact .inl rfl
  | chreset c =>
    obtain ⟨-, rfl⟩ | ⟨hclosed, rfl⟩ := chresetBody_ok h
    · exact .inl rfl
    · exact .inr (.inr ⟨c, rfl, hclosed, rfl⟩)
  | _ => exact .inl ((pseudocode_footprint (by simp [framing]) h).k rfl)

theorem slotOf_val {c : BitVec 4} (hc : c.toNat < 8) : (slotOf c).val = c.toNat := Nat.mod_eq_of_lt hc

/-- Settles O14: by what each pseudocode makes of K. -/
theorem committedHistoryOnlyByCommit : Obligations.CommittedHistoryOnlyByCommit := by
  intro i s t h hne
  obtain rfl | ⟨e, rfl⟩ | ⟨hslots, u, hu, rfl⟩ := exec_cases h
  · exact absurd rfl hne
  · exact absurd rfl hne
  obtain hk | ⟨rfl, ho, hfail, hk⟩ | ⟨c, rfl, hclosed, hk⟩ := pseudocode_k hu
  · exact absurd hk hne
  · exact .inl ⟨rfl, ho, hfail, hk⟩
  · refine .inr ⟨c, rfl, hclosed, fun d hd => ?_⟩
    have hc : c.toNat < 8 := hslots c (List.mem_singleton_self c)
    have hother : d ≠ slotOf c := fun hdc => hd (hdc ▸ slotOf_val hc)
    rw [State.kAt, complete_k, hk]
    exact kAt_setK_other s (slotOf c) d _ hother

/-! ### The cursor -/

/-- The cursor behind a reading of a frame's bits (41_bitreader.md R190). -/
theorem cursor_of_reading {α : Type} {m : BitM α} (hm : Reads s m) (hs : s.cursorLegal) {a : α} {pos : Nat}
    (h : s.reading m = .ok (a, pos)) :
    s.bitpos.toNat ≤ (BitVec.ofNat 32 pos).toNat ∧ (BitVec.ofNat 32 pos).toNat ≤ s.bitlen.toNat := by
  obtain ⟨hlo, hhi⟩ := reading_ok hm hs h
  rw [toNat_ofNat_of_le hhi]
  exact ⟨hlo, hhi⟩

theorem cursor_of_readCommand {ok : Bool} {m : State → BitM Nat} (hm : Reads s (m s)) (hs : s.cursorLegal)
    (h : readCommand ok m s = .ok u) : s.bitpos.toNat ≤ u.bitpos.toNat ∧ u.bitpos.toNat ≤ s.bitlen.toNat := by
  obtain ⟨-, -, v, pos, hread, rfl⟩ := readCommand_ok.1 h
  exact cursor_of_reading hm hs hread

/-- No pseudocode but that of FBEGIN moves the cursor back, and none moves it past BITLEN. -/
theorem pseudocode_cursor (hs : s.cursorLegal) (hi : ¬framing i) (h : pseudocode i s = .ok u) :
    s.bitpos.toNat ≤ u.bitpos.toNat ∧ u.bitpos.toNat ≤ s.bitlen.toNat := by
  cases hmoves : movesCursor i with
  | false =>
    rw [(pseudocode_footprint hi h).bitpos hmoves]
    exact ⟨le_rfl, hs⟩
  | true =>
    unfold pseudocode at h
    cases i with
    | rdbits => exact cursor_of_readCommand (reads_readBits _) hs h
    | rdunary => exact cursor_of_readCommand (reads_readUnary _ _) hs h
    | rdvlc => exact cursor_of_readCommand (reads_readVlc _) hs h
    | rdesc => exact cursor_of_readCommand (reads_readEsc _ _) hs h
    | sect =>
      obtain ⟨-, -, -, -, cbs, pos, hread, rfl⟩ := sectBody_ok.1 h
      exact cursor_of_reading (fun p a p' => reads_readSections _ _ _ _ p a p') hs hread
    | spec =>
      obtain ⟨-, -, -, vals, pos, q, mags, hread, rfl⟩ := specBody_ok h
      exact cursor_of_reading (reads_readAllSections _ _ _) hs hread
    | sf =>
      obtain ⟨-, -, -, start, r, pos, -, hread, rfl⟩ := sfBody_ok h
      exact cursor_of_reading (reads_readSfs _ _ _ _ _) hs hread
    | arith =>
      obtain ⟨-, -, -, hle, f, -, -, rfl⟩ := arithBody_ok h
      have hsum : (s.bitpos + s.arg0).toNat = s.bitpos.toNat + s.arg0.toNat := toNat_add_of_le hle
      exact ⟨(Nat.le_add_right _ _).trans_eq hsum.symm, hsum.trans_le hle⟩
    | _ => cases hmoves

/-- The end of a frame leaves the cursor, BITLEN, FCFG and SEQ alone. -/
theorem frameEnd_keeps (hi : i = .fcommit ∨ i = .fabort) (h : pseudocode i s = .ok u) :
    u.bitpos = s.bitpos ∧ u.bitlen = s.bitlen ∧ u.fcfg = s.fcfg ∧ u.seq = s.seq := by
  rcases hi with rfl | rfl
  · obtain ⟨-, ⟨-, rfl⟩ | ⟨-, -, rfl⟩⟩ := fcommitBody_ok.1 h <;> exact ⟨rfl, rfl, rfl, rfl⟩
  · obtain ⟨-, rfl⟩ := fabortBody_ok.1 h
    exact ⟨rfl, rfl, rfl, rfl⟩

theorem framing_iff : framing i ↔ (i matches .fbegin _ _ _ _ _) ∨ i = .fcommit ∨ i = .fabort := by
  cases i <;> simp [framing]

/-- Settles O16: by what each pseudocode makes of the cursor. -/
theorem cursorOnlyMovesForward : Obligations.CursorOnlyMovesForward := by
  intro i s t hs h hi
  obtain rfl | ⟨e, rfl⟩ | ⟨-, u, hu, rfl⟩ := exec_cases h
  · exact ⟨rfl, rfl, rfl, le_rfl⟩
  · exact ⟨rfl, rfl, rfl, le_rfl⟩
  by_cases hframing : framing i
  · obtain ⟨hbitpos, hbitlen, hfcfg, hseq⟩ := frameEnd_keeps ((framing_iff.1 hframing).resolve_left hi) hu
    exact ⟨hbitlen, hfcfg, hseq, (congrArg BitVec.toNat hbitpos).ge⟩
  · obtain ⟨hbitlen, hfcfg, hseq, -⟩ := (pseudocode_footprint hframing hu).registers
    exact ⟨hbitlen, hfcfg, hseq, (pseudocode_cursor hs hframing hu).1⟩

end Sys2Proof.Proofs

/-! A channel command keeps to its slots (10_state.md R78). The elements its loops write lie in the spaces of its own slot,
in a state whose windows, timeslots and high band are in range. -/

namespace Sys2Proof.Proofs

open Sys2Proof Sys2Proof.Machine Sys2Proof.Laws Sys2Proof.Config

variable {s t u : State} {i : Instr} {c d : Fin 8} {e : Nat}

/-! ### Frames in range -/

/-- An open legal frame has at most 32 timeslots (10_state.md R80). -/
theorem numTs_le_of_frameLegal (hs : s.frameLegal) (ho : s.status.fopen = true) {n : Nat} (hn : s.frame.numTs = some n) :
    n ≤ 32 := by
  rw [State.frameLegal, if_pos ho] at hs
  obtain ⟨hflb, hts, -⟩ := hs
  have hle : ∀ flb ∈ flbTable, flb / 64 ≤ 32 := by decide
  have hlen := hle _ hflb
  rw [hts, slotsOf] at hn
  split at hn
  · cases hn
    exact hlen
  · cases hn

/-! ### What the loops write -/

/-- The samples of windows in range are those of one slot's part of TD. -/
theorem read_imdctWindows_other {any : Nat → Nat → Word} {flb base : Nat} {coef : Tab Real32 2048} {l : List Window}
    {x y : ChannelState} {m td : Memory Word} (hw : ∀ w ∈ l, w.off + w.len ≤ 2048) (he : e < base ∨ base + 2048 ≤ e)
    (h : imdctWindows flb base coef l (x, m) = .ok (y, td)) : td.read any e = m.read any e := by
  induction l generalizing x m with
  | nil =>
    obtain ⟨-, rfl⟩ := Prod.mk.inj (Except.ok.inj h)
    rfl
  | cons w l ih =>
    obtain ⟨coefs, -, hrest⟩ := bind_ok.1 h
    have hlen := hw w List.mem_cons_self
    rw [ih (fun w' hw' => hw w' (List.mem_cons_of_mem _ hw')) hrest]
    refine read_setRun_other any m _ _ e ?_
    rw [length_emitted]
    omega

theorem exists_mem_of_mapE_ok {α β : Type} {f : α → Except Stop β} {l : List α} {r : List β} (h : mapE f l = .ok r)
    {b : β} (hb : b ∈ r) : ∃ a ∈ l, f a = .ok b := by
  have hall := mapE_ok.1 h
  clear h
  induction hall with
  | nil => cases hb
  | cons hab _ ih =>
    rcases List.mem_cons.1 hb with rfl | hb
    · exact ⟨_, List.mem_cons_self, hab⟩
    · obtain ⟨a, ha, hfa⟩ := ih hb
      exact ⟨a, List.mem_cons_of_mem _ ha, hfa⟩

theorem advanceCounters_sbTop (x : ChannelState) : (advanceCounters x).sbTop = x.sbTop := by simp only [advanceCounters]

/-- The parts of a high band in range are those of one slot's part of QG. -/
theorem read_assembleSlot_other {any : Nat → Nat → Word} {ts : Nat} {x y : ChannelState} {m qg : Memory Word}
    (hts : ts < 32) (htop : x.sbTop ≤ 64) (he : e < c.val * 4096 ∨ c.val * 4096 + 4096 ≤ e)
    (h : assembleSlot s c ts x m = .ok (y, qg)) : y.sbTop = x.sbTop ∧ qg.read any e = m.read any e := by
  simp only [assembleSlot, bind_ok, pure_ok, Prod.mk.injEq] at h
  obtain ⟨l, -, elems, helems, rfl, rfl⟩ := h
  refine ⟨advanceCounters_sbTop x, read_setAll_other any m _ e fun p hp => ?_⟩
  obtain ⟨pair, hpair, hp⟩ := List.mem_flatten.1 hp
  obtain ⟨k, hk, hfk⟩ := exists_mem_of_mapE_ok helems hpair
  obtain ⟨z, -, hz⟩ := bind_ok.1 hfk
  obtain ⟨hlo, hhi⟩ := List.mem_range'_1.1 hk
  have hk : k < 64 := by omega
  rw [pure_ok.1 hz] at hp
  simp only [List.mem_cons, List.not_mem_nil, or_false] at hp
  unfold qgIndex at hp
  rcases hp with rfl | rfl
  · dsimp only [maxTs]
    omega
  · dsimp only [maxTs]
    omega

theorem read_assembleSlots_other {any : Nat → Nat → Word} {l : List Nat} {x y : ChannelState} {m qg : Memory Word}
    (hl : ∀ ts ∈ l, ts < 32) (htop : x.sbTop ≤ 64) (he : e < c.val * 4096 ∨ c.val * 4096 + 4096 ≤ e)
    (h : assembleSlots s c l (x, m) = .ok (y, qg)) : qg.read any e = m.read any e := by
  induction l generalizing x m with
  | nil =>
    obtain ⟨-, rfl⟩ := Prod.mk.inj (Except.ok.inj h)
    rfl
  | cons ts l ih =>
    obtain ⟨⟨x1, m1⟩, hslot, hrest⟩ := bind_ok.1 h
    obtain ⟨htop1, hread⟩ := read_assembleSlot_other (hl ts List.mem_cons_self) htop he hslot
    rw [ih (fun k hk => hl k (List.mem_cons_of_mem _ hk)) (htop1.trans_le htop) hrest, hread]

/-! ### The elements of the other slots -/

/-- PCM of a slot the command does not name. -/
theorem pcm_of_other_slot (hs : s.frameLegal) (h : pseudocode i s = .ok u) (hi : ¬framing i)
    (hd : d ∉ i.slots.map slotOf) (he : e < 2048) : u.pcmElem (d.val * 2048 + e) = s.pcmElem (d.val * 2048 + e) := by
  cases hpcm : writesPcm i with
  | false => rw [State.pcmElem, (pseudocode_footprint hi h).pcm hpcm, State.pcmElem]
  | true =>
    cases i with
    | qmfs c =>
      obtain ⟨ho, -, -, -, n, hn, rfl⟩ := qmfsBody_ok.1 h
      have hle := numTs_le_of_frameLegal hs ho hn
      have hne : d.val ≠ (slotOf c).val := fun hv => hd (List.mem_singleton.2 (Fin.ext hv))
      refine read_setRun_other (anyWord 2) s.pcm ((slotOf c).val * 2048) _ _ ?_
      rw [synthesise_length, List.length_map, List.length_range]
      omega
    | _ => cases hpcm

/-- TD of a slot the command does not name. -/
theorem td_of_other_slot (hs : s.channelsLegal) (h : pseudocode i s = .ok u) (hi : ¬framing i)
    (hd : d ∉ i.slots.map slotOf) (he : e < 2048) : u.tdElem (d.val * 2048 + e) = s.tdElem (d.val * 2048 + e) := by
  cases htd : writesTd i with
  | false => rw [State.tdElem, (pseudocode_footprint hi h).td htd, State.tdElem]
  | true =>
    cases i with
    | imdct c =>
      obtain ⟨-, -, -, -, x, td, hwindows, rfl⟩ := imdctBody_ok.1 h
      obtain ⟨⟨-, -, hwins, -⟩, -⟩ := hs (slotOf c)
      have hne : d.val ≠ (slotOf c).val := fun hv => hd (List.mem_singleton.2 (Fin.ext hv))
      exact read_imdctWindows_other (base := (slotOf c).val * 2048) hwins (by omega) hwindows
    | _ => cases htd

/-- QG of a slot the command does not name. -/
theorem qg_of_other_slot (hframe : s.frameLegal) (hs : s.channelsLegal) (h : pseudocode i s = .ok u) (hi : ¬framing i)
    (hd : d ∉ i.slots.map slotOf) (he : e < 4096) : u.qgElem (d.val * 4096 + e) = s.qgElem (d.val * 4096 + e) := by
  cases hqg : writesQg i with
  | false => rw [State.qgElem, (pseudocode_footprint hi h).qg hqg, State.qgElem]
  | true =>
    cases i with
    | qmfa c =>
      obtain ⟨ho, -, -, n, input, hn, hinput, rfl⟩ := qmfaBody_ok.1 h
      have hle := numTs_le_of_frameLegal hframe ho hn
      have hne : d.val ≠ (slotOf c).val := fun hv => hd (List.mem_singleton.2 (Fin.ext hv))
      refine read_writeRows_other (any := anyWord 3) (m := s.qg) ?_
      rw [analyse_length, mapE_length hinput, List.length_range]
      omega
    | aspxasm c =>
      obtain ⟨ho, -, -, n, x, qg, hn, hslots, rfl⟩ := aspxasmBody_ok.1 h
      have hle := numTs_le_of_frameLegal hframe ho hn
      obtain ⟨⟨-, -, -, -, -, htop, -⟩, -⟩ := hs (slotOf c)
      have hne : d.val ≠ (slotOf c).val := fun hv => hd (List.mem_singleton.2 (Fin.ext hv))
      exact read_assembleSlots_other (fun ts hts => (List.mem_range.1 hts).trans_le hle) htop (by omega) hslots
    | _ => cases hqg

/-- Settles O15: the records by the command's footprint, the elements space by space. -/
theorem commandsKeepToTheirSlots : Obligations.CommandsKeepToTheirSlots := by
  intro i s t hframe hs h hi d hd
  obtain rfl | ⟨x, rfl⟩ | ⟨hslots, u, hu, rfl⟩ := exec_cases h
  · exact ⟨rfl, rfl, fun _ _ => ⟨rfl, rfl⟩, fun _ _ => rfl⟩
  · exact ⟨rfl, rfl, fun _ _ => ⟨rfl, rfl⟩, fun _ _ => rfl⟩
  have hother : d ∉ i.slots.map slotOf := by
    intro hmem
    obtain ⟨c, hc, rfl⟩ := List.mem_map.1 hmem
    exact hd c hc (slotOf_val (hslots c hc)).symm
  obtain ⟨hw, hchan⟩ := (pseudocode_footprint hi hu).slots d hother
  exact ⟨hw, hchan, fun e he => ⟨pcm_of_other_slot (u := u) hframe hu hi hother he,
    td_of_other_slot (u := u) hs hu hi hother he⟩, fun e he => qg_of_other_slot (u := u) hframe hs hu hi hother he⟩

end Sys2Proof.Proofs

/-! What every step keeps, of the part of the state that commands and resets alone write. A host access leaves that part
alone or resets it, so a property of it that holds after power-on is kept by every step once every pseudocode keeps it.
The first two such properties: the cursor in range (10_state.md R48) and the frame state legal (R80, R84). -/

namespace Sys2Proof.Proofs

open Sys2Proof Sys2Proof.Machine Sys2Proof.Laws Sys2Proof.Config

variable {s t u : State} {i : Instr}

/-! ### The part of the state no host access writes -/

/-- `t` has the parameters, the open frame, the cursor and the records of `s`. -/
def coreKept (s t : State) : Prop :=
  t.cfg = s.cfg ∧ t.status.fopen = s.status.fopen ∧ t.bitpos = s.bitpos ∧ t.bitlen = s.bitlen ∧ t.frame = s.frame ∧
    t.chan = s.chan ∧ t.w = s.w ∧ t.k = s.k

theorem coreKept_refl (s : State) : coreKept s s := ⟨rfl, rfl, rfl, rfl, rfl, rfl, rfl, rfl⟩

theorem coreKept_complete (s : State) : coreKept s s.complete := coreKept_refl s

theorem coreKept_takeFatal (s : State) (e : FatalError) : coreKept s (s.takeFatal e) := coreKept_refl s

theorem coreKept_readHdata (s : State) : coreKept s s.readHdata := by
  unfold State.readHdata
  split <;> exact coreKept_refl s

theorem coreKept_memWrite (s : State) (space j : Nat) (v : Word) : coreKept s (s.memWrite space j v) := by
  rw [memWrite_eq]
  exact coreKept_refl s

theorem coreKept_writeHdata (s : State) (v : Word) : coreKept s (s.writeHdata v) := by
  unfold State.writeHdata
  split
  · exact coreKept_memWrite s _ _ v
  · exact coreKept_refl s

theorem coreKept_readRegister (s : State) (offset : Nat) : coreKept s (s.readRegister offset) := by
  unfold State.readRegister
  split
  · exact coreKept_readHdata s
  · exact coreKept_refl s

theorem coreKept_writeCtrl_or_reset (s : State) (v : Word) :
    coreKept s (s.writeCtrl v) ∨ ∃ p, coreKept (State.powerOn p) (s.writeCtrl v) := by
  unfold State.writeCtrl
  split
  · exact .inr ⟨s.cfg, coreKept_refl _⟩
  · exact .inl (coreKept_refl s)

theorem coreKept_writeRegister_or_reset (s : State) (offset : Nat) (v : Word) :
    coreKept s (s.writeRegister offset v) ∨ ∃ p, coreKept (State.powerOn p) (s.writeRegister offset v) := by
  unfold State.writeRegister
  split
  · exact coreKept_writeCtrl_or_reset s v
  · exact .inl (coreKept_refl s)
  · exact .inl (coreKept_refl s)
  · exact .inl (coreKept_refl s)
  · exact .inl (coreKept_refl s)
  · exact .inl (coreKept_refl s)
  · exact .inl (coreKept_writeHdata s v)
  · exact .inl (coreKept_refl s)

theorem coreKept_abandon (s : State) : ∃ p, coreKept (State.powerOn p) s.abandon := by
  obtain ⟨i, -, h⟩ | h := abandon_cases (s := s)
  · rw [h]
    exact ⟨(s.forgetWritten i).cfg, coreKept_refl _⟩
  · rw [h]
    exact ⟨s.cfg, coreKept_refl _⟩

/-! ### Every step, for that part -/

/-- A step leaves the part alone, resets it, or has what a pseudocode makes of it. -/
theorem step_effect (h : step s = .next t) :
    coreKept s t ∨ (∃ p, coreKept (State.powerOn p) t) ∨
      ∃ i u, pseudocode i s = .ok u ∧ u.cfg = s.cfg ∧ coreKept u t := by
  obtain ⟨-, -, rfl⟩ | ⟨-, hrun⟩ | ⟨a, q, -, ⟨-, hacc⟩ | ⟨-, -, hacc⟩⟩ := step_next h
  · exact .inl (coreKept_refl t)
  · obtain ⟨i, -, hexec⟩ | ⟨e, -, rfl⟩ := runCommand_next.1 hrun
    · obtain ⟨hcfg, -⟩ := exec_keeps_hostSide hexec
      obtain rfl | ⟨e, rfl⟩ | ⟨-, u, hu, rfl⟩ := exec_cases hexec
      · exact .inl (coreKept_complete s)
      · exact .inl (coreKept_takeFatal s e)
      · exact .inr (.inr ⟨i, u, hu, hcfg, coreKept_complete u⟩)
    · exact .inl (coreKept_takeFatal s _)
  · obtain ⟨-, ⟨v, -, rfl⟩ | ⟨-, rfl⟩⟩ := access_next.1 hacc
    · exact (coreKept_writeRegister_or_reset { s with hostQ := q } a.offset v).imp_right .inl
    · exact .inl (coreKept_readRegister { s with hostQ := q } a.offset)
  · obtain rfl | rfl | ⟨v, rfl⟩ := busyAccess_next hacc
    · exact .inl (coreKept_readRegister { s with hostQ := q } _)
    · exact .inr (.inl (coreKept_abandon { s with hostQ := q }))
    · exact (coreKept_writeCtrl_or_reset { s with hostQ := q } v).imp_right .inl

/-- A property of that part that holds after power-on and that every pseudocode keeps is kept by every step. -/
theorem step_keeps {P : State → Prop} (hcore : ∀ {s t}, coreKept s t → P s → P t) (hreset : ∀ p, P (State.powerOn p))
    (hcommand : ∀ i u, pseudocode i s = .ok u → u.cfg = s.cfg → P u) (hs : P s) (h : step s = .next t) : P t := by
  obtain hkept | ⟨p, hkept⟩ | ⟨i, u, hu, hcfg, hkept⟩ := step_effect h
  · exact hcore hkept hs
  · exact hcore hkept (hreset p)
  · exact hcore hkept (hcommand i u hu hcfg)

/-! ### The cursor -/

theorem cursorLegal_of_coreKept (h : coreKept s t) (hs : s.cursorLegal) : t.cursorLegal := by
  obtain ⟨-, -, hpos, hlen, -⟩ := h
  rwa [State.cursorLegal, hpos, hlen]

theorem beginFrame_cursorLegal (f m : BitVec 4) (d : BitVec 2) (indep seqp : Bool) (s : State) :
    (beginFrame f m d indep seqp s).cursorLegal := by
  rw [beginFrame_eq]
  exact Nat.zero_le _

theorem pseudocode_keeps_cursorLegal (hs : s.cursorLegal) (h : pseudocode i s = .ok u) : u.cursorLegal := by
  by_cases hi : framing i
  · obtain hbegin | hend := framing_iff.1 hi
    · cases i with
      | fbegin =>
        obtain ⟨-, rfl⟩ := fbeginBody_ok_iff.1 h
        exact beginFrame_cursorLegal _ _ _ _ _ s
      | _ => cases hbegin
    · obtain ⟨hpos, hlen, -⟩ := frameEnd_keeps hend h
      rwa [State.cursorLegal, hpos, hlen]
  · obtain ⟨hlen, -⟩ := (pseudocode_footprint hi h).registers
    rw [State.cursorLegal, hlen]
    exact (pseudocode_cursor hs hi h).2

/-- Settles O19: the cursor is part of what host accesses keep, and every pseudocode keeps it in range. -/
theorem cursorStaysInRange : Obligations.CursorStaysInRange := fun _ _ hs h =>
  step_keeps cursorLegal_of_coreKept (fun _ => le_rfl) (fun _ _ hu _ => pseudocode_keeps_cursorLegal hs hu) hs h

/-! ### The frame state -/

theorem frameLegal_iff : s.frameLegal ↔
    (s.status.fopen = true → s.frame.flb ∈ flbTable ∧ s.frame.numTs = slotsOf s.frame.flb ∧
      s.bitlen.toNat % 8 = 0 ∧ s.frame.base + s.bitlen.toNat / 8 ≤ bsmBytes) ∧
    (s.status.fopen = false → s.frame = Frame.reset ∧ ∀ c, s.chanAt c = ChanFrame.empty) := by
  unfold State.frameLegal
  cases s.status.fopen <;> simp

theorem frameLegal_of_open (ho : s.status.fopen = true) (hflb : s.frame.flb ∈ flbTable)
    (hts : s.frame.numTs = slotsOf s.frame.flb) (hbits : s.bitlen.toNat % 8 = 0)
    (hrange : s.frame.base + s.bitlen.toNat / 8 ≤ bsmBytes) : s.frameLegal :=
  frameLegal_iff.2 ⟨fun _ => ⟨hflb, hts, hbits, hrange⟩, by simp [ho]⟩

/-- The frame of `s` stays: F, BITLEN and F.open, and with no frame open F[c]. -/
theorem frameLegal_of_kept (hopen : t.status.fopen = s.status.fopen) (hlen : t.bitlen = s.bitlen)
    (hframe : t.frame = s.frame) (hchan : s.status.fopen = false → t.chan = s.chan) (hs : s.frameLegal) :
    t.frameLegal := by
  rw [frameLegal_iff] at hs ⊢
  obtain ⟨hopened, hclosed⟩ := hs
  rw [hopen, hlen, hframe]
  refine ⟨hopened, fun hc => ?_⟩
  obtain ⟨hreset, hempty⟩ := hclosed hc
  refine ⟨hreset, fun c => ?_⟩
  rw [State.chanAt, hchan hc]
  exact hempty c

theorem frameLegal_of_coreKept (h : coreKept s t) (hs : s.frameLegal) : t.frameLegal := by
  obtain ⟨-, hopen, -, hlen, hframe, hchan, -⟩ := h
  exact frameLegal_of_kept hopen hlen hframe (fun _ => hchan) hs

theorem endFrame_frameLegal (s : State) : s.endFrame.frameLegal := ⟨rfl, chanAt_of_replicate rfl⟩

theorem flbTable_getD_mem {n : Nat} (hn : n ≤ 8) : flbTable.getD n 0 ∈ flbTable := by
  have hlen : n < flbTable.length := Nat.lt_succ_of_le hn
  rw [List.getD_eq_getElem _ _ hlen]
  exact List.getElem_mem hlen

theorem beginFrame_frameLegal {f m : BitVec 4} {d : BitVec 2} {indep seqp : Bool} (h : beginAllowed f seqp s) :
    (beginFrame f m d indep seqp s).frameLegal := by
  obtain ⟨-, hf, hrange, -⟩ := h
  have hlen : (beginFrame f m d indep seqp s).bitlen.toNat = 8 * s.argLen := by
    rw [beginFrame_eq]
    exact (BitVec.toNat_ofNat _ _).trans (Nat.mod_eq_of_lt (by omega))
  have hframe : (beginFrame f m d indep seqp s).frame =
      ⟨flbTable.getD f.toNat 0, slotsOf (flbTable.getD f.toNat 0), indep, s.argBase⟩ := by rw [beginFrame_eq]; rfl
  have hopen : (beginFrame f m d indep seqp s).status.fopen = true := by
    obtain hstatus | hstatus := beginFrame_status_cases f m d indep seqp s <;> rw [hstatus]
  refine frameLegal_of_open hopen ?_ ?_ ?_ ?_
  · rw [hframe]
    exact flbTable_getD_mem hf
  · rw [hframe]
  · rw [hlen]
    exact Nat.mul_mod_right 8 _
  · rw [hlen, hframe, Nat.mul_div_cancel_left _ (by decide)]
    exact hrange

/-- No command but those of a frame's begin and end opens or closes the frame. -/
theorem fopen_of_pseudocode (hi : ¬framing i) (h : pseudocode i s = .ok u) : u.status.fopen = s.status.fopen := by
  cases hflags : writesFlags i with
  | false =>
    obtain ⟨hstatus, -⟩ := pseudocode_keeps_flags hflags h
    rw [hstatus]
  | true =>
    cases i with
    | arith =>
      obtain ⟨-, -, -, -, f, -, -, rfl⟩ := arithBody_ok h
      simp
    | fbegin | fcommit | fabort => exact absurd rfl hi
    | _ => cases hflags

/-- With no frame open no command writes F[c] (60_exceptions.md R380). -/
theorem chan_of_closed (ho : s.status.fopen = false) (hi : ¬framing i) (h : pseudocode i s = .ok u) :
    u.chan = s.chan := by
  cases i with
  | nop => rw [← Except.ok.inj h]
  | chreset => obtain ⟨-, rfl⟩ | ⟨-, rfl⟩ := chresetBody_ok h <;> rfl
  | fbegin => exact absurd rfl hi
  | _ => cases (pseudocode_of_not_ready (not_ready_of_closed ho (by simp))).symm.trans h

theorem pseudocode_keeps_frameLegal (hs : s.frameLegal) (h : pseudocode i s = .ok u) : u.frameLegal := by
  by_cases hi : framing i
  · cases i with
    | fbegin =>
      obtain ⟨hallowed, rfl⟩ := fbeginBody_ok_iff.1 h
      exact beginFrame_frameLegal hallowed
    | fcommit => obtain ⟨-, ⟨-, rfl⟩ | ⟨-, -, rfl⟩⟩ := fcommitBody_ok.1 h <;> exact endFrame_frameLegal _
    | fabort =>
      obtain ⟨-, rfl⟩ := fabortBody_ok.1 h
      exact endFrame_frameLegal s
    | _ => cases hi
  · obtain ⟨hlen, -, -, hframe⟩ := (pseudocode_footprint hi h).registers
    exact frameLegal_of_kept (fopen_of_pseudocode hi h) hlen hframe (fun ho => chan_of_closed ho hi h) hs

/-- Settles O21: F, BITLEN and F[c] are part of what host accesses keep, and every pseudocode keeps them legal. -/
theorem frameStaysLegal : Obligations.FrameStaysLegal := fun _ _ hs h =>
  step_keeps frameLegal_of_coreKept powerOn_frameLegal (fun _ _ hu _ => pseudocode_keeps_frameLegal hs hu) hs h

end Sys2Proof.Proofs

/-! The channel records stay legal (10_state.md R71, R73, R74, R76). What a pseudocode can make of a record, said once:
its legality is then a matter of the window layout SETLAYOUT answers, of the length of the QMF history, and of the
tables BuildTables answers. -/

namespace Sys2Proof.Proofs

open Sys2Proof Sys2Proof.Machine Sys2Proof.Laws Sys2Proof.Config

variable {s t u : State} {i : Instr} {c d : Fin 8} {p : Params} {x y : ChannelState}

/-! ### What a pseudocode makes of a record -/

/-- `y` is `x` but for the fields that no range and no table rule speaks of: the sample map with the window sizes, the
filter lines, the last configuration and the ASPX history. -/
def sameShape (x y : ChannelState) : Prop :=
  y = { x with
    nwin := y.nwin, tlen := y.tlen, smap := y.smap, acc := y.acc, tail := y.tail, nprev := y.nprev
    flbPrev := y.flbPrev, qa := y.qa, qs := y.qs, cfgPrev := y.cfgPrev, masterResetPending := y.masterResetPending
    qscfPrev := y.qscfPrev, freqResPrev := y.freqResPrev, qnoisePrev := y.qnoisePrev, invfPrev := y.invfPrev
    chirpPrev := y.chirpPrev, alphaPrev := y.alphaPrev, noiseIdx := y.noiseIdx, sineIdx := y.sineIdx }

theorem sameShape_refl (x : ChannelState) : sameShape x x := rfl

theorem legal_of_sameShape (h : sameShape x y) (hx : x.legal p) : y.legal p := by
  rw [h]
  exact hx

theorem tablesLegal_of_sameShape (h : sameShape x y) (hx : x.tablesLegal) : y.tablesLegal := by
  rw [h]
  exact hx

/-- What a pseudocode can make of W[d]. -/
inductive RecordStep (s : State) (d : Fin 8) : ChannelState → Prop where
  | kept {y : ChannelState} (h : sameShape (s.wAt d) y) : RecordStep s d y
  | committed : RecordStep s d (s.kAt d)
  | reset : RecordStep s d (ChannelState.reset s.cfg)
  | layout {n : Nat} {gs : List LayoutGroup} (hn : n ≤ 16) (h : layoutGroups s d n 0 0 = .ok gs) :
    RecordStep s d ((s.wAt d).withLayout s.cfg s.frame.flb gs)
  | history {qa : Vector Real32 640} {rows : List Slot} : RecordStep s d
    { s.wAt d with qa := qa, qhist := ((s.wAt d).qhist ++ rows).drop rows.length }
  | tables {cfg : Int × Int × Int} {xo nsb : Int} {b : AspxTabs} {y : ChannelState}
    (h : buildTables s.cfg cfg xo nsb = .ok b) (hy : sameShape ((s.wAt d).withTables b) y) : RecordStep s d y

/-- A pseudocode that leaves W alone. -/
theorem recordStep_of_w (h : u.w = s.w) (d : Fin 8) : RecordStep s d (u.wAt d) := by
  rw [State.wAt, h]
  exact .kept (sameShape_refl _)

/-- A pseudocode that writes one record. -/
theorem recordStep_of_setW (hu : u.w = (s.setW c y).w) (h : RecordStep s c y) (d : Fin 8) :
    RecordStep s d (u.wAt d) := by
  have hat : u.wAt d = (s.setW c y).wAt d := by rw [State.wAt, hu, State.wAt]
  rw [hat]
  by_cases hd : d = c
  · subst hd
    rwa [wAt_setW]
  · rw [wAt_setW_other s c d y hd]
    exact .kept (sameShape_refl _)

theorem chresetBody_recordStep (h : chresetBody c s = .ok u) (d : Fin 8) : RecordStep s d (u.wAt d) := by
  obtain ⟨-, rfl⟩ | ⟨-, rfl⟩ := chresetBody_ok h <;> exact recordStep_of_setW (c := c) rfl .reset d

theorem setlayoutBody_recordStep (h : setlayoutBody c s = .ok u) (d : Fin 8) : RecordStep s d (u.wAt d) := by
  obtain ⟨-, -, hn, gs, hgs, rfl⟩ := setlayoutBody_ok.1 h
  exact recordStep_of_setW (c := c) rfl (.layout (by omega) hgs) d

theorem imdctBody_recordStep (h : imdctBody c s = .ok u) (d : Fin 8) : RecordStep s d (u.wAt d) := by
  obtain ⟨-, -, -, -, x, td, hwindows, rfl⟩ := imdctBody_ok.1 h
  obtain ⟨-, hx⟩ := imdctWindows_ok hwindows
  refine recordStep_of_setW (c := c) rfl (.kept ?_) d
  rw [hx]
  rfl

theorem qmfaBody_recordStep (h : qmfaBody c s = .ok u) (d : Fin 8) : RecordStep s d (u.wAt d) := by
  obtain ⟨-, -, -, n, input, -, hinput, rfl⟩ := qmfaBody_ok.1 h
  have hrows : n = (analyse s.cfg.qmfWin (s.wAt c).qa input).2.length := by
    rw [analyse_length, mapE_length hinput, List.length_range]
  refine recordStep_of_setW (c := c) rfl ?_ d
  rw [hrows]
  exact .history

theorem qmfsBody_recordStep (h : qmfsBody c s = .ok u) (d : Fin 8) : RecordStep s d (u.wAt d) := by
  obtain ⟨-, -, -, -, n, -, rfl⟩ := qmfsBody_ok.1 h
  refine recordStep_of_setW (c := c) rfl (.kept ?_) d
  rfl

theorem aspxcfgBody_recordStep (h : aspxcfgBody c s = .ok u) (d : Fin 8) : RecordStep s d (u.wAt d) := by
  obtain ⟨-, -, -, x, hx, rfl⟩ := aspxcfgBody_ok.1 h
  refine recordStep_of_setW (c := c) rfl ?_ d
  unfold State.configuredTables at hx
  split at hx
  · obtain ⟨b, hb, hpure⟩ := bind_ok.1 hx
    rw [pure_ok.1 hpure]
    exact .tables hb rfl
  · rw [← Except.ok.inj hx]
    exact .kept rfl

theorem aspxenvBody_recordStep (h : aspxenvBody c s = .ok u) (d : Fin 8) : RecordStep s d (u.wAt d) := by
  obtain ⟨-, -, -, a, sig, noise, x, f, -, -, -, -, -, -, hx, -, rfl⟩ := aspxenvBody_ok h
  refine recordStep_of_setW (c := c) rfl (.kept ?_) d
  rw [hx]
  rfl

theorem aspxhfBody_recordStep (h : aspxhfBody c s = .ok u) (d : Fin 8) : RecordStep s d (u.wAt d) := by
  obtain ⟨-, -, -, modes, numTs, qlow, alphas, x, f, -, -, -, -, hx, -, rfl⟩ := aspxhfBody_ok h
  refine recordStep_of_setW (c := c) rfl (.kept ?_) d
  rw [hx]
  rfl

theorem aspxasmBody_recordStep (h : aspxasmBody c s = .ok u) (d : Fin 8) : RecordStep s d (u.wAt d) := by
  obtain ⟨-, -, -, n, x, qg, -, hslots, rfl⟩ := aspxasmBody_ok.1 h
  obtain ⟨-, hx⟩ := assembleSlots_ok hslots
  refine recordStep_of_setW (c := c) rfl (.kept ?_) d
  rw [hx]
  rfl

theorem beginFrame_wAt (f m : BitVec 4) (e : BitVec 2) (indep seqp : Bool) (s : State) (d : Fin 8) :
    (beginFrame f m e indep seqp s).wAt d = s.kAt d := by
  rw [beginFrame_eq]
  rfl

theorem framing_recordStep (hi : framing i) (h : pseudocode i s = .ok u) (d : Fin 8) : RecordStep s d (u.wAt d) := by
  cases i with
  | fbegin =>
    obtain ⟨-, rfl⟩ := fbeginBody_ok_iff.1 h
    rw [beginFrame_wAt]
    exact .committed
  | fcommit => obtain ⟨-, ⟨-, rfl⟩ | ⟨-, -, rfl⟩⟩ := fcommitBody_ok.1 h <;> exact recordStep_of_w rfl d
  | fabort =>
    obtain ⟨-, rfl⟩ := fabortBody_ok.1 h
    exact recordStep_of_w rfl d
  | _ => cases hi

theorem pseudocode_recordStep (h : pseudocode i s = .ok u) (d : Fin 8) : RecordStep s d (u.wAt d) := by
  by_cases hi : framing i
  · exact framing_recordStep hi h d
  cases hw : writesRecord i with
  | false => exact recordStep_of_w ((pseudocode_footprint hi h).w hw) d
  | true =>
    unfold pseudocode at h
    cases i with
    | chreset => exact chresetBody_recordStep h d
    | setlayout => exact setlayoutBody_recordStep h d
    | imdct => exact imdctBody_recordStep h d
    | qmfa => exact qmfaBody_recordStep h d
    | qmfs => exact qmfsBody_recordStep h d
    | aspxcfg => exact aspxcfgBody_recordStep h d
    | aspxenv => exact aspxenvBody_recordStep h d
    | aspxhf => exact aspxhfBody_recordStep h d
    | aspxasm => exact aspxasmBody_recordStep h d
    | _ => cases hw

/-- What a pseudocode can make of K[d]. -/
theorem pseudocode_kAt (h : pseudocode i s = .ok u) (d : Fin 8) :
    u.kAt d = s.kAt d ∨ u.kAt d = s.wAt d ∨ u.kAt d = ChannelState.reset s.cfg := by
  obtain hk | ⟨-, -, -, hk⟩ | ⟨b, -, -, hk⟩ := pseudocode_k h
  · exact .inl (congrArg (·.get d) hk)
  · exact .inr (.inl (congrArg (·.get d) hk))
  · have hat : u.kAt d = (s.setK (slotOf b) (ChannelState.reset s.cfg)).kAt d := congrArg (·.get d) hk
    by_cases hd : d = slotOf b
    · subst hd
      exact .inr (.inr (hat.trans (kAt_setK ..)))
    · exact .inl (hat.trans (kAt_setK_other s _ d _ hd))

/-- A property of records that the reset record has and that every step of a record keeps holds of both generations
after every pseudocode. -/
theorem records_after_pseudocode {Q : ChannelState → Prop} (hreset : Q (ChannelState.reset s.cfg))
    (hstep : ∀ d y, RecordStep s d y → Q y) (hs : ∀ d, Q (s.wAt d) ∧ Q (s.kAt d)) (h : pseudocode i s = .ok u)
    (d : Fin 8) : Q (u.wAt d) ∧ Q (u.kAt d) := by
  obtain ⟨hw, hk⟩ := hs d
  refine ⟨hstep d _ (pseudocode_recordStep h d), ?_⟩
  obtain hat | hat | hat := pseudocode_kAt h d <;> rw [hat]
  · exact hk
  · exact hw
  · exact hreset

/-! ### The window layout -/

/-- The group has bands and samples in range. -/
def groupInRange (flb : Nat) (g : LayoutGroup) : Prop :=
  g.maxSfb ≤ Config.maxSfb ∧ g.off + g.nwin * g.tlen ≤ flb ∧ flb ≤ 2048

/-- SETLAYOUT answers as many groups as it reads, each in range (40_control.md R166). -/
theorem layoutGroups_inRange {n g off : Nat} {gs : List LayoutGroup} (h : layoutGroups s c n g off = .ok gs) :
    gs.length = n ∧ ∀ z ∈ gs, groupInRange s.frame.flb z := by
  induction n generalizing g off gs with
  | zero =>
    obtain ⟨_, -, hnil⟩ := bind_ok.1 h
    rw [pure_ok.1 hnil]
    exact ⟨rfl, nofun⟩
  | succ n ih =>
    rw [layoutGroups_succ] at h
    obtain ⟨_, -, h⟩ := bind_ok.1 h
    obtain ⟨_, hlen, h⟩ := bind_ok.1 h
    obtain ⟨len, hmem, -⟩ := tlen_check_iff.1 (require_ok.1 hlen)
    split at h
    · obtain ⟨_, hbands, h⟩ := bind_ok.1 h
      obtain ⟨_, hend, h⟩ := bind_ok.1 h
      obtain ⟨rest, hrest, h⟩ := bind_ok.1 h
      simp only [require_ok, Bool.and_eq_true, decide_eq_true_eq] at hbands hend
      obtain ⟨-, hsfb⟩ := hbands
      obtain ⟨hlength, hrange⟩ := ih hrest
      rw [pure_ok.1 h]
      exact ⟨congrArg (· + 1) hlength, List.forall_mem_cons.2 ⟨⟨hsfb, hend, le_of_mem_tlenTable hmem⟩, hrange⟩⟩
    · cases h

theorem window_end_le {g : LayoutGroup} {w : Window} (h : w ∈ g.windows) : w.off + w.len ≤ g.off + g.nwin * g.tlen := by
  obtain ⟨k, hk, rfl⟩ := List.mem_map.1 h
  have hle : (k + 1) * g.tlen ≤ g.nwin * g.tlen := Nat.mul_le_mul_right _ (List.mem_range.1 hk)
  rw [Nat.succ_mul] at hle
  dsimp only
  omega

theorem withLayout_legal {flb : Nat} {gs : List LayoutGroup} (hlen : gs.length ≤ 16)
    (hgs : ∀ z ∈ gs, groupInRange flb z) (hx : x.legal p) : (x.withLayout p flb gs).legal p := by
  obtain ⟨-, -, -, hhist, htables⟩ := hx
  refine ⟨hlen, fun g => ?_, fun w hw => ?_, hhist, htables⟩
  · simp only [ChannelState.withLayout, Vector.get_ofFn]
    cases hg : gs[g.val]? with
    | none => exact Nat.zero_le _
    | some z =>
      obtain ⟨hsfb, -⟩ := hgs z (List.mem_of_getElem? hg)
      exact hsfb
  · obtain ⟨z, hz, hwz⟩ := List.mem_flatMap.1 hw
    obtain ⟨-, hend, hflb⟩ := hgs z hz
    exact (window_end_le hwz).trans (hend.trans hflb)

/-! ### The tables BuildTables answers -/

section
variable {cfg : Int × Int × Int} {xo nsb : Int} {b : AspxTabs}

/-- A table from `lo` to `hi`. -/
def spansBand (lo hi : Nat) (l : List Nat) : Prop := l.head? = some lo ∧ l.getLast? = some hi

theorem spansBand_of_entry {lo hi : Nat} {l : List Nat} (hl : l ≠ []) (hfirst : entry l 0 = lo)
    (hlast : entry l (groups l) = hi) : spansBand lo hi l := by
  rw [spansBand, head?_eq_entry hl, hfirst]
  exact ⟨rfl, (getLast?_eq_entry hl).trans (congrArg some hlast)⟩

/-- Halving the groups keeps the last border (45_aspx_tables.md R304). -/
theorem entry_lowRes_last {hi : List Nat} (h : 2 ≤ hi.length) :
    entry (lowRes hi) (groups (lowRes hi)) = entry hi (groups hi) := by
  have hpos : 1 ≤ groups hi := Nat.le_sub_one_of_lt h
  rw [groups_lowRes, entry_lowRes (by omega) le_rfl]
  congr 1
  split <;> omega

theorem noiseIndex_le (nl nq k : Nat) : noiseIndex nl nq k ≤ nl := by
  induction k with
  | zero => exact Nat.zero_le _
  | succ k ih =>
    rw [noiseIndex]
    have hstep : (nl - noiseIndex nl nq k) / (nq - k) ≤ nl - noiseIndex nl nq k := Nat.div_le_self _ _
    omega

/-- The last noise border is the last one of the low-resolution table (45_aspx_tables.md R305). -/
theorem noiseIndex_last {nq : Nat} (nl : Nat) (h : 1 ≤ nq) : noiseIndex nl nq nq = nl := by
  obtain ⟨k, rfl⟩ := Nat.exists_eq_add_of_le' h
  have hle := noiseIndex_le nl (k + 1) k
  rw [noiseIndex, Nat.add_sub_cancel_left, Nat.div_one]
  omega

/-- The high, low and noise tables run from the crossover to the top of the master table (45_aspx_tables.md R303 to
R305). -/
theorem tablesOf_spanBand {m : List Nat} {k : Nat} {ps : List RawPatch} (hk : k < m.length - 1)
    (hnq : noiseCount nsb (entry m k) (entry m (m.length - 1)) ≤ 5) :
    ∀ l ∈ [(tablesOf m k nsb ps).hi, (tablesOf m k nsb ps).lo, (tablesOf m k nsb ps).noise],
      spansBand (entry m k) (entry m (m.length - 1)) l := by
  have hlen : (m.drop k).length = m.length - k := List.length_drop
  have hne : m.drop k ≠ [] := List.ne_nil_of_length_pos (by omega)
  have hfirst : entry (m.drop k) 0 = entry m k := entry_drop 0 k
  have hlast : entry (m.drop k) (groups (m.drop k)) = entry m (m.length - 1) := by
    rw [entry_drop, groups, hlen]
    congr 1
    omega
  have hlow : entry (lowRes (m.drop k)) (groups (lowRes (m.drop k))) = entry m (m.length - 1) :=
    (entry_lowRes_last (by omega)).trans hlast
  obtain ⟨hone, -⟩ := noiseCount_bounds hnq
  simp only [List.forall_mem_cons, List.not_mem_nil, false_imp_iff, implies_true, and_true]
  refine ⟨spansBand_of_entry hne hfirst hlast, spansBand_of_entry (List.cons_ne_nil _ _) hfirst hlow,
    spansBand_of_entry (List.cons_ne_nil _ _) hfirst ?_⟩
  rw [tablesOf, groups_noiseTable, entry_noiseTable le_rfl, noiseIndex_last _ hone]
  exact hlow

/-- What the record rules ask of the tables BuildTables answers (45_aspx_tables.md R302 to R305). -/
theorem buildTables_checked (h : buildTables p cfg xo nsb = .ok b) :
    (∀ l ∈ [b.master, b.hi, b.lo, b.noise, b.lim], tableOk (entry b.master 0) l = true) ∧ 1 ≤ entry b.master 0 ∧
      groups b.hi ≤ 48 ∧ ∀ l ∈ [b.hi, b.lo, b.noise], spansBand b.sbx b.sbTop l := by
  obtain ⟨m, ps, -, -, -, hlt, -, rfl, hok⟩ := buildTables_ok h
  obtain ⟨htables, hfirst, hgroups, hnq, -⟩ := tablesOk_iff.1 hok
  exact ⟨htables, hfirst, hgroups, tablesOf_spanBand hlt hnq⟩

/-- The crossover is at most the top of the band, which is at most 64. -/
theorem buildTables_band (h : buildTables p cfg xo nsb = .ok b) : b.sbx ≤ b.sbTop ∧ b.sbTop ≤ 64 := by
  obtain ⟨m, ps, -, hmaster, -, hlt, -, rfl, -⟩ := buildTables_ok h
  obtain ⟨hmaster, -⟩ := masterOk_iff.1 hmaster
  exact ⟨entry_le_of_tableOk hmaster (by omega) (by omega), (entry_bounds_of_tableOk hmaster (by omega)).2⟩

/-- The patches BuildTables answers (45_aspx_tables.md R302, R308). -/
theorem buildTables_patches (h : buildTables p cfg xo nsb = .ok b) :
    b.patches.length ≤ 6 ∧
      (∀ r ∈ b.patches, 1 ≤ r.count ∧ 0 ≤ r.src ∧ r.src + r.count ≤ b.sbx ∧ r.dst + r.count ≤ b.sbTop) ∧
      (∀ r ∈ b.patches.head?, r.dst = b.sbx) ∧ b.patches.IsChain fun r q => q.dst = r.dst + r.count := by
  obtain ⟨-, -, -, -, -, -, -, -, -, -, -, -, -, -, -, hsix, hbounds, hhead, hchain, -⟩ :=
    buildTablesFollowsRules p cfg xo nsb b h
  exact ⟨hsix, hbounds, hhead, hchain⟩

theorem groups_noise_le (h : buildTables p cfg xo nsb = .ok b) : groups b.noise ≤ 5 := by
  obtain ⟨-, -, -, -, -, -, -, -, -, -, hfive, -⟩ := buildTablesFollowsRules p cfg xo nsb b h
  exact hfive

theorem withTables_legal (h : buildTables p cfg xo nsb = .ok b) {q : Params} (hx : x.legal q) :
    (x.withTables b).legal q := by
  obtain ⟨hgroups, hsfb, hwins, hhist, -⟩ := hx
  obtain ⟨hband, htop⟩ := buildTables_band h
  obtain ⟨hsix, -⟩ := buildTables_patches h
  exact ⟨hgroups, hsfb, hwins, hhist, hband, htop, (List.length_map _).trans_le hsix⟩

theorem withTables_tablesLegal (h : buildTables p cfg xo nsb = .ok b) (x : ChannelState) :
    (x.withTables b).tablesLegal := by
  intro _
  obtain ⟨htables, hfirst, hgroups, hspan⟩ := buildTables_checked h
  obtain ⟨-, hbounds, hhead, hchain⟩ := buildTables_patches h
  refine ⟨htables, hfirst, hspan, hgroups, groups_noise_le h, fun r hr => ?_, fun r hr => ?_, ?_⟩
  · obtain ⟨raw, hraw, rfl⟩ := List.mem_map.1 hr
    obtain ⟨hcount, hsrc, hsrcEnd, hdstEnd⟩ := hbounds raw hraw
    exact ⟨hcount, show raw.src.toNat + raw.count ≤ b.sbx by omega, hdstEnd⟩
  · rw [ChannelState.withTables, List.head?_map] at hr
    obtain ⟨raw, hraw, rfl⟩ := Option.map_eq_some_iff.1 hr
    exact hhead raw hraw
  · exact (List.isChain_map _).2 hchain

end

/-! ### Legal records -/

theorem history_length {α : Type} (l rows : List α) : ((l ++ rows).drop rows.length).length = l.length := by
  rw [List.length_drop, List.length_append, Nat.add_sub_cancel]

theorem recordStep_legal (hs : s.channelsLegal) (h : RecordStep s d y) : y.legal s.cfg := by
  obtain ⟨hw, hk⟩ := hs d
  cases h with
  | kept hy => exact legal_of_sameShape hy hw
  | committed => exact hk
  | reset => exact reset_legal s.cfg
  | layout hn hgs =>
    obtain ⟨hlen, hrange⟩ := layoutGroups_inRange hgs
    exact withLayout_legal (hlen.trans_le hn) hrange hw
  | history =>
    obtain ⟨hgroups, hsfb, hwins, hhist, htables⟩ := hw
    exact ⟨hgroups, hsfb, hwins, (history_length _ _).trans hhist, htables⟩
  | tables hb hy => exact legal_of_sameShape hy (withTables_legal hb hw)

theorem channelsLegal_of_coreKept (h : coreKept s t) (hs : s.channelsLegal) : t.channelsLegal := by
  obtain ⟨hcfg, -, -, -, -, -, hw, hk⟩ := h
  intro d
  rw [State.wAt, State.kAt, hw, hk, hcfg]
  exact hs d

theorem pseudocode_keeps_channelsLegal (hs : s.channelsLegal) (h : pseudocode i s = .ok u) (hcfg : u.cfg = s.cfg) :
    u.channelsLegal := by
  intro d
  rw [hcfg]
  exact records_after_pseudocode (Q := (·.legal s.cfg)) (reset_legal s.cfg) (fun _ _ => recordStep_legal hs) hs h d

/-- Settles O22: each record by what a pseudocode can make of it. -/
theorem channelsStayLegal : Obligations.ChannelsStayLegal := fun _ _ _ hs h =>
  step_keeps channelsLegal_of_coreKept powerOn_channelsLegal
    (fun _ _ hu hcfg => pseudocode_keeps_channelsLegal hs hu hcfg) hs h

/-! ### Legal tables -/

theorem recordStep_tablesLegal (hs : s.tablesLegal) (h : RecordStep s d y) : y.tablesLegal := by
  obtain ⟨hw, hk⟩ := hs d
  cases h with
  | kept hy => exact tablesLegal_of_sameShape hy hw
  | committed => exact hk
  | reset => exact reset_tablesLegal s.cfg
  | layout | history => exact hw
  | tables hb hy => exact tablesLegal_of_sameShape hy (withTables_tablesLegal hb _)

theorem tablesLegal_of_coreKept (h : coreKept s t) (hs : s.tablesLegal) : t.tablesLegal := by
  obtain ⟨-, -, -, -, -, -, hw, hk⟩ := h
  intro d
  rw [State.wAt, State.kAt, hw, hk]
  exact hs d

/-- Settles O23: a record's tables are its old ones, none, or what BuildTables answers. -/
theorem subbandTablesStayLegal : Obligations.SubbandTablesStayLegal := fun s _ hs h =>
  step_keeps tablesLegal_of_coreKept powerOn_tablesLegal
    (fun _ _ hu _ => records_after_pseudocode (reset_tablesLegal s.cfg) (fun _ _ => recordStep_tablesLegal hs) hs hu)
    hs h

end Sys2Proof.Proofs
